-- ==== Sys2Proof/Word.lean ====
section
/-! DEFINITION. The words of the machine: 16-bit halves, 16-bit operation words, and the Word32 pair
with its 32-bit view (spec 00_scope.md R6, R8, R9; 30_encoding.md R61). -/

namespace Sys2Proof

/-- One native 16-bit value: an entry of an array, or one half of a Word32 (R6, R21). -/
abbrev Half := BitVec 16

/-- One 16-bit operation word of the stream (R61). -/
abbrev OpWord := BitVec 16

/-- A Word32: the ordered pair (hi, lo), hi holding bits 31..16 and lo bits 15..0 (R9). -/
structure Word32 where
  hi : Half
  lo : Half
deriving DecidableEq, Repr

/-- The 32-bit view of a pair, `val(hi, lo) = hi * 2^16 + lo` (R9): hi in the more significant place. -/
def Word32.val (x : Word32) : BitVec 32 := x.hi ++ x.lo

/-- The pair of a 32-bit number, `pair(v) = (v[31:16], v[15:0])` (R9). -/
def Word32.pair (v : BitVec 32) : Word32 := ⟨v.extractLsb' 16 16, v.extractLsb' 0 16⟩

/-- The pair (0, 0). -/
def Word32.zero : Word32 := ⟨0, 0⟩

end Sys2Proof
end

