-- ==== Sys2Proof/Config.lean ====
section
/-! DEFINITION. What one implementation fixes and what the spec leaves open: the bounds of construction
(00_scope.md R6, 60_exceptions.md R143, R148) and the free values, which have no body. -/

namespace Sys2Proof.Config

/-- The free value of an entry that nothing has written since construction (10_state.md R35, U1): the
bits the entry with flat index `h` holds in the element that drew the contents numbered `seed`.
"A model may instead draw an arbitrary 16-bit value": nothing constrains it (log 1). -/
opaque unwritten (seed h : Nat) : Half

/-- The free value of ROW in an element that Construct has not given one since reset (70 R170; log 5). -/
opaque unassignedRow (seed : Nat) : Half

/-- The free value of COL in an element that Construct has not given one since reset (70 R170; log 5). -/
opaque unassignedCol (seed : Nat) : Half

/-- The free value of a left shift by a count outside 0..15, which no rule applies (40 R83, U7; log 16). -/
opaque shiftLeftBeyond (a : Half) (k : Nat) : Half

/-- The free value of a right shift by a count outside 1..15, which no rule applies (40 R84, U7; log 16). -/
opaque shiftRightBeyond (a : Half) (k : Nat) : Half

/-- The free value of a mask for a count outside 1..15, which no rule applies (40 R84, U7; log 16). -/
opaque lowmaskBeyond (n : Nat) : Half

/-- The greatest number of rows and of columns of a grid (60 R148). -/
def maxGrid : Nat := 65535

/-- The entries of W (10 R21, 60 R143). -/
def lengthW : Nat := 8

/-- The entries of CTR, and of a counter image (10 R21, 60 R143). -/
def lengthCtr : Nat := 8

/-- The entries of KS (10 R21, 60 R143). -/
def lengthKs : Nat := 10

/-- The entries of a key image: the key words KS[0..7] (60 R143). -/
def lengthKeyImage : Nat := 8

end Sys2Proof.Config
end

