-- ==== Sys2Proof/Machine/Flags.lean ====
section
/-! DEFINITION. The one condition bit of the design: the carry of a 16-bit addition, a value that lives
inside one Add32 and is no flag register (10_state.md R28; 40_halfword_arithmetic.md R81, R82). -/

namespace Sys2Proof.Machine

/-- A 16-bit sum and its carry out. -/
structure Sum16 where
  sum : Half
  carry : Bool
deriving DecidableEq, Repr

/-- `adc16(a, b, cin)`: the sum modulo 2^16, and a carry if the exact sum reaches 2^16 (R82). -/
def adc16 (a b : Half) (cin : Bool) : Sum16 :=
  let exact := a.toNat + b.toNat + cin.toNat
  ⟨BitVec.ofNat 16 exact, decide (2 ^ 16 ≤ exact)⟩

/-- `add16(a, b)`: the sum modulo 2^16, and a carry if the exact sum reaches 2^16 (R81). -/
def add16 (a b : Half) : Sum16 :=
  let exact := a.toNat + b.toNat
  ⟨BitVec.ofNat 16 exact, decide (2 ^ 16 ≤ exact)⟩

end Sys2Proof.Machine
end

