-- ==== Sys2Proof/Machine/Halfword.lean ====
section
/-! DEFINITION. The half-word arithmetic layer: the 16-bit primitives and the Word32 functions Xor32,
Add32, Rotl32, each on the pair of halves (40_halfword_arithmetic.md R80 to R90). -/

namespace Sys2Proof.Machine

/-- `shl16(a, k)` for k in 0..15 (R83); beyond it no rule applies a shift (U7). -/
def shl16 (a : Half) (k : Nat) : Half :=
  if k ≤ 15 then BitVec.ofNat 16 (a.toNat * 2 ^ k) else Config.shiftLeftBeyond a k

/-- `shr16(a, k)` for k in 1..15, a logical shift (R84); beyond it no rule applies a shift (U7). -/
def shr16 (a : Half) (k : Nat) : Half :=
  if 1 ≤ k ∧ k ≤ 15 then BitVec.ofNat 16 (a.toNat / 2 ^ k) else Config.shiftRightBeyond a k

/-- `lowmask(n)` for n in 1..15 (R84). -/
def lowmask (n : Nat) : Half :=
  if 1 ≤ n ∧ n ≤ 15 then BitVec.ofNat 16 (2 ^ n - 1) else Config.lowmaskBeyond n

/-- `and16` (R85). -/
def and16 (a b : Half) : Half := a &&& b

/-- `or16` (R85). -/
def or16 (a b : Half) : Half := a ||| b

/-- `xor16` (R85). -/
def xor16 (a b : Half) : Half := a ^^^ b

/-- `Xor32`: half by half (R86). -/
def xor32 (x y : Word32) : Word32 := ⟨xor16 x.hi y.hi, xor16 x.lo y.lo⟩

/-- `Add32`: the low halves first, the high halves with the carry; the top carry is discarded (R87, R176). -/
def add32 (x y : Word32) : Word32 :=
  let low := add16 x.lo y.lo
  let high := adc16 x.hi y.hi low.carry
  ⟨high.sum, low.sum⟩

/-- The halves exchanged: the rotation by 16 (R90). -/
def swapHalves (x : Word32) : Word32 := ⟨x.lo, x.hi⟩

/-- One new half of a rotation by n in 1..15, from the old half in its place and the old other half (R90). -/
def rotlHalf (own other : Half) (n : Nat) : Half :=
  or16 (shl16 own n) (and16 (shr16 other (16 - n)) (lowmask n))

/-- `Rotl32(x, n)` for n in 0..15: the identity, or both new halves from both old halves (R90, R178). -/
def rotlLow (x : Word32) (n : Nat) : Word32 :=
  if n = 0 then x else ⟨rotlHalf x.hi x.lo n, rotlHalf x.lo x.hi n⟩

/-- `Rotl32(x, n)` for n in 0..31: from 16 on, the swap and then the rest, one level deep (R90). -/
def rotl32 (x : Word32) (n : Nat) : Word32 :=
  if 16 ≤ n then rotlLow (swapHalves x) (n - 16) else rotlLow x n

end Sys2Proof.Machine
end

