-- ==== Sys2Proof/Syntax.lean ====
section
/-! DEFINITION. The twelve operations of the element as terms (30_encoding.md R60, R62 to R68). A field
whose every value is legal has a type of that size; a field with a legal range, or whose abstract term
may hold a number no word can (R65, R117), is a natural number that WellFormed checks. -/

namespace Sys2Proof

/-- One operation. `d`, `ma`, `mb` name working words (R63); `a`, `b` are slot numbers (R64);
`amt` is a rotation amount (R65); `imm` the immediate (R66); `q`, `n`, `h` the number `k` of format N (R67). -/
inductive Instr where
  /-- ADD32 Wd, sa, sb (R88) -/
  | add32 (d : Fin 4) (a b : Nat)
  /-- ADDI32 Wd, sa, imm (R89) -/
  | addi32 (d : Fin 4) (a imm : Nat)
  /-- XOR32 Wd, sa, sb (R92) -/
  | xor32 (d : Fin 4) (a b : Nat)
  /-- ROTL32 Wd, sa, amt (R91) -/
  | rotl32 (d : Fin 4) (a amt : Nat)
  /-- MIX Wx, Wy, amt (R100) -/
  | mix (ma mb : Fin 4) (amt : Nat)
  /-- INJECT q (R114) -/
  | inject (q : Nat)
  /-- ROUND n (R102) -/
  | round (n : Nat)
  /-- KEYID (R110) -/
  | keyid
  /-- KEYSCHED (R112) -/
  | keysched
  /-- INIT (R121) -/
  | init
  /-- GEN (R123) -/
  | gen
  /-- DUMP h (R130) -/
  | dump (h : Nat)
deriving DecidableEq, Repr

end Sys2Proof
end

