-- ==== Sys2Proof/WellFormed.lean ====
section
/-! DEFINITION. Which terms are operations of the hardware (30_encoding.md R64 to R68, R71), and for a
term that is none, the construction error that refuses it (60_exceptions.md R144 to R146, R150). -/

namespace Sys2Proof

/-- Why the construction checks refuse an operation term (60 R142, codes 4, 1 and 5). -/
inductive TermError where
  /-- a reserved form (30 R71), or a number that no operation word holds and no other check names -/
  | illegalOp
  /-- a rotation amount of 32 or more (R144) -/
  | rotAmount
  /-- an injection scalar of 2^16 or more (R146) -/
  | scalar
deriving DecidableEq, Repr

/-- The first check the term fails, in the order CE_ILLEGAL_OP, CE_ROT_AMOUNT, CE_SCALAR of R150;
`none` for a legal term. A scalar of 2^16 or more is no operation word at all, so for it the check of
reserved words says nothing and CE_SCALAR is the error (95 V90; log 11). -/
def Instr.check : Instr → Option TermError
  | .add32 _ a b => if a ≤ 12 ∧ b ≤ 12 then none else some .illegalOp
  | .addi32 _ a imm =>
    if 12 < a then some .illegalOp
    else if imm ≤ 15 then none
    else if imm < 2 ^ 16 then some .illegalOp
    else some .scalar
  | .xor32 _ a b => if a ≤ 12 ∧ b ≤ 12 then none else some .illegalOp
  | .rotl32 _ a amt =>
    if 12 < a then some .illegalOp else if amt ≤ 31 then none else some .rotAmount
  | .mix ma mb amt =>
    if ma = mb then some .illegalOp else if amt ≤ 31 then none else some .rotAmount
  | .inject q => if q ≤ 5 then none else if q < 2 ^ 16 then some .illegalOp else some .scalar
  | .round n => if n ≤ 19 then none else some .illegalOp
  | .keyid => none
  | .keysched => none
  | .init => none
  | .gen => none
  | .dump h => if h ≤ 25 then none else some .illegalOp

/-- The term is one of the legal operations of R70. -/
abbrev Instr.WellFormed (i : Instr) : Prop := i.check = none

end Sys2Proof
end

