-- ==== Sys2Proof/Decode.lean ====
section
/-! DEFINITION. The decoder of one operation word, total on all 65536 words (30_encoding.md R62, R70 to
R73), the encoder written from the same formats, and the word table's decoder for the host. -/

namespace Sys2Proof

/-- Why a word is reserved, by the clause of R71. -/
inductive DecodeError where
  /-- (a) opcode 0x0 or 0xA..0xF -/
  | opcode
  /-- (b) a field named 0 is not zero -/
  | mustBeZero
  /-- (c) a source field is 13, 14 or 15 -/
  | sourceSlot
  /-- (d) MIX with ma = mb -/
  | mixEqual
  /-- (e) INJECT above 5, ROUND above 19, DUMP above 25 -/
  | range
  /-- (f) opcode 8 with sub above 3 -/
  | sub
deriving DecidableEq, Repr

/-- The bit field `w[hi:lo]`, both ends included, read as an unsigned number (R8). -/
def bitField (w : OpWord) (hi lo : Nat) : Nat := w.toNat / 2 ^ lo % 2 ^ (hi + 1 - lo)

/-- A 2-bit field that names a working word (R63). -/
def wordField (w : OpWord) (lo : Nat) : Fin 4 := Fin.ofNat 4 (bitField w (lo + 1) lo)

/-- Format R: fields d, a, b, and two zero bits (R62), legal when a, b <= 12 (R70). -/
def decodeR (mk : Fin 4 → Nat → Nat → Instr) (w : OpWord) : Except DecodeError Instr :=
  if bitField w 1 0 ≠ 0 then .error .mustBeZero
  else if 12 < bitField w 9 6 ∨ 12 < bitField w 5 2 then .error .sourceSlot
  else .ok (mk (wordField w 10) (bitField w 9 6) (bitField w 5 2))

/-- Format I: fields d, a, imm4, and two zero bits (R62), legal when a <= 12 (R70). -/
def decodeI (mk : Fin 4 → Nat → Nat → Instr) (w : OpWord) : Except DecodeError Instr :=
  if bitField w 1 0 ≠ 0 then .error .mustBeZero
  else if 12 < bitField w 9 6 then .error .sourceSlot
  else .ok (mk (wordField w 10) (bitField w 9 6) (bitField w 5 2))

/-- Format S: fields d, a, a zero bit, amt (R62), legal when a <= 12 (R70). -/
def decodeS (mk : Fin 4 → Nat → Nat → Instr) (w : OpWord) : Except DecodeError Instr :=
  if bitField w 5 5 ≠ 0 then .error .mustBeZero
  else if 12 < bitField w 9 6 then .error .sourceSlot
  else .ok (mk (wordField w 10) (bitField w 9 6) (bitField w 4 0))

/-- Format M: fields ma, mb, three zero bits, amt (R62), legal when ma != mb (R70). -/
def decodeM (mk : Fin 4 → Fin 4 → Nat → Instr) (w : OpWord) : Except DecodeError Instr :=
  if bitField w 7 5 ≠ 0 then .error .mustBeZero
  else if wordField w 10 = wordField w 8 then .error .mixEqual
  else .ok (mk (wordField w 10) (wordField w 8) (bitField w 4 0))

/-- Format N: seven zero bits and the number k (R62), legal up to `limit` (R67). -/
def decodeN (mk : Nat → Instr) (limit : Nat) (w : OpWord) : Except DecodeError Instr :=
  if bitField w 11 5 ≠ 0 then .error .mustBeZero
  else if limit < bitField w 4 0 then .error .range
  else .ok (mk (bitField w 4 0))

/-- Format Z: eight zero bits and the selector sub (R62, R68). -/
def decodeZ (w : OpWord) : Except DecodeError Instr :=
  if bitField w 11 4 ≠ 0 then .error .mustBeZero
  else match bitField w 3 0 with
    | 0 => .ok .keyid
    | 1 => .ok .keysched
    | 2 => .ok .init
    | 3 => .ok .gen
    | _ => .error .sub

/-- The decoder (R73): the opcode field selects the row of R70; the row's format checks the rest. -/
def decode (w : OpWord) : Except DecodeError Instr :=
  match bitField w 15 12 with
  | 1 => decodeR .add32 w
  | 2 => decodeI .addi32 w
  | 3 => decodeR .xor32 w
  | 4 => decodeS .rotl32 w
  | 5 => decodeM .mix w
  | 6 => decodeN .inject 5 w
  | 7 => decodeN .round 19 w
  | 8 => decodeZ w
  | 9 => decodeN .dump 25 w
  | _ => .error .opcode

/-- The word is one of the 4288 legal words (R72). -/
def legalWord (w : OpWord) : Bool :=
  match decode w with
  | .ok _ => true
  | .error _ => false

/-- Formats R and I: `op || d || a || b || 00` (R62). -/
def encodeR (op : Nat) (d : Fin 4) (a b : Nat) : OpWord :=
  BitVec.ofNat 16 (op * 2 ^ 12 + d.val * 2 ^ 10 + a * 2 ^ 6 + b * 2 ^ 2)

/-- Format S: `op || d || a || 0 || amt` (R62). -/
def encodeS (op : Nat) (d : Fin 4) (a amt : Nat) : OpWord :=
  BitVec.ofNat 16 (op * 2 ^ 12 + d.val * 2 ^ 10 + a * 2 ^ 6 + amt)

/-- Format M: `op || ma || mb || 000 || amt` (R62). -/
def encodeM (op : Nat) (ma mb : Fin 4) (amt : Nat) : OpWord :=
  BitVec.ofNat 16 (op * 2 ^ 12 + ma.val * 2 ^ 10 + mb.val * 2 ^ 8 + amt)

/-- Formats N and Z: `op || zeros || k` (R62). -/
def encodeN (op k : Nat) : OpWord := BitVec.ofNat 16 (op * 2 ^ 12 + k)

/-- The word of a legal operation (R62, R70). -/
def encode : Instr → OpWord
  | .add32 d a b => encodeR 1 d a b
  | .addi32 d a imm => encodeR 2 d a imm
  | .xor32 d a b => encodeR 3 d a b
  | .rotl32 d a amt => encodeS 4 d a amt
  | .mix ma mb amt => encodeM 5 ma mb amt
  | .inject q => encodeN 6 q
  | .round n => encodeN 7 n
  | .keyid => encodeN 8 0
  | .keysched => encodeN 8 1
  | .init => encodeN 8 2
  | .gen => encodeN 8 3
  | .dump h => encodeN 9 h

/-- The instruction of a word numbered as spec/opcode_table.json numbers it: one 16-bit word, bit 0 its
least significant bit. Every operation has exactly one word (R61), so `nbits` adds nothing: bits above
it are 0. A number of more than 16 bits is no operation word. -/
def decodeTableWord (_nbits w : Nat) : Option Instr :=
  if w < 2 ^ 16 then (decode (BitVec.ofNat 16 w)).toOption else none

/-- ADD32 W0, C0, K0 = 0001 00 0100 1000 00 (R70). -/
theorem decode_word_add32 : decode 0b0001000100100000#16 = .ok (.add32 0 4 8) := by decide
/-- ADDI32 W3, W3, 5 = 0010 11 0011 0101 00 (R70). -/
theorem decode_word_addi32 : decode 0b0010110011010100#16 = .ok (.addi32 3 3 5) := by decide
/-- XOR32 W1, W1, W0 = 0011 01 0001 0000 00 (R70). -/
theorem decode_word_xor32 : decode 0b0011010001000000#16 = .ok (.xor32 1 1 0) := by decide
/-- ROTL32 W2, C3, 31 = 0100 10 0111 0 11111 (R70). -/
theorem decode_word_rotl32 : decode 0b0100100111011111#16 = .ok (.rotl32 2 7 31) := by decide
/-- MIX W2, W3, 26 = 0101 10 11 000 11010 (R70). -/
theorem decode_word_mix : decode 0b0101101100011010#16 = .ok (.mix 2 3 26) := by decide
/-- INJECT 5 = 0110 0000000 00101 (R70). -/
theorem decode_word_inject : decode 0b0110000000000101#16 = .ok (.inject 5) := by decide
/-- ROUND 19 = 0111 0000000 10011 (R70). -/
theorem decode_word_round : decode 0b0111000000010011#16 = .ok (.round 19) := by decide
/-- KEYID = 1000 00000000 0000 (R70). -/
theorem decode_word_keyid : decode 0b1000000000000000#16 = .ok .keyid := by decide
/-- KEYSCHED = 1000 00000000 0001 (R70). -/
theorem decode_word_keysched : decode 0b1000000000000001#16 = .ok .keysched := by decide
/-- INIT = 1000 00000000 0010 (R70). -/
theorem decode_word_init : decode 0b1000000000000010#16 = .ok .init := by decide
/-- GEN = 1000 00000000 0011 (R70). -/
theorem decode_word_gen : decode 0b1000000000000011#16 = .ok .gen := by decide
/-- DUMP K4.L = 1001 0000000 11001 (R70). -/
theorem decode_word_dump : decode 0b1001000000011001#16 = .ok (.dump 25) := by decide

end Sys2Proof
end

