-- ==== Sys2Proof/Machine/State.lean ====
section
/-! DEFINITION. The state of the machine as plain data (10_state.md R20 to R35; 60_exceptions.md R142,
R156, R163), the reasons a step can stop, and the state after reset (R33; 70_reset_and_hazards.md R170). -/

namespace Sys2Proof.Machine

/-- One 16-bit entry of an array with its written mark (R21, R35). While the mark is clear the entry
"holds no value": `val` is then a placeholder that no read returns (log 3). -/
structure Entry where
  val : Half
  written : Bool
deriving DecidableEq, Repr

/-- An entry that nothing has written since construction (R35). -/
def Entry.blank : Entry := ⟨0, false⟩

/-- The model fault UNINIT(h, pc): flat index of the unwritten entry and pc of the operation (R35). -/
structure Uninit where
  h : Nat
  pc : Nat
deriving DecidableEq, Repr

/-- The private state of one element (R20, R21, R25, R29, R35). STATUS, ERR and pc, which have one value
for all elements, are held once, in State (R27, R151, D24; log 4). -/
structure Element where
  /-- W[0..7], the working words Wd[0..3] -/
  w : Vector Entry 8
  /-- CTR[0..7], the counter words Cd[0..3] -/
  ctr : Vector Entry 8
  /-- KS[0..9], the key words Kd[0..3] and the parity word Kd[4] -/
  ks : Vector Entry 10
  /-- ROW (R25); while `identified` is clear, only the host's name for the element (log 5) -/
  row : Half
  /-- COL (R25); while `identified` is clear, only the host's name for the element (log 5) -/
  col : Half
  /-- Construct has given ROW and COL since reset: before that they "have no value" (70 R170; log 5) -/
  identified : Bool
  /-- TRACE, oldest record first: flat index and value (R29) -/
  trace : List (Nat × Half)
  /-- FAULT, sticky (R35); none in an element that Reset (R33) or Construct (log 25) has made -/
  fault : Option Uninit
  /-- the model's own: which unwritten contents this element drew (log 23) -/
  seed : Nat
deriving DecidableEq, Repr

/-- An element in the reset state (R33, R170): every entry without a value, TRACE empty, no FAULT, ROW and
COL without a value; `row` and `col` are the host's name for it (log 5). -/
def Element.blank (row col : Half) (seed : Nat) : Element where
  w := Vector.replicate 8 Entry.blank
  ctr := Vector.replicate 8 Entry.blank
  ks := Vector.replicate 10 Entry.blank
  row := row
  col := col
  identified := false
  trace := []
  fault := none
  seed := seed

/-- STATUS (R26). -/
inductive Status where
  /-- 0: constructed or reset, no run in progress -/
  | idle
  /-- 1: the sequencer is issuing the stream -/
  | running
  /-- 2: the stream was issued to its end -/
  | done
  /-- 3: construction failed -/
  | rejected
deriving DecidableEq, Repr

/-- The construction-error codes 0 to 5 (R142). -/
inductive ErrCode where
  /-- 0: no error -/
  | none
  /-- 1: CE_ROT_AMOUNT -/
  | rotAmount
  /-- 2: CE_ARRAY_LENGTH -/
  | arrayLength
  /-- 3: CE_GRID -/
  | grid
  /-- 4: CE_ILLEGAL_OP -/
  | illegalOp
  /-- 5: CE_SCALAR -/
  | scalar
deriving DecidableEq, Repr

/-- ERR: the code and its information word (R26, R142). -/
structure Err where
  code : ErrCode
  info : Nat
deriving DecidableEq, Repr

/-- ERR holding 0 (R26). -/
def Err.zero : Err := ⟨.none, 0⟩

/-- The three arrays, as the host names them (R163). -/
inductive ArrayName where
  | w
  | ctr
  | ks
deriving DecidableEq, Repr

/-- The lengths of the arrays the host allocates (R143). -/
structure ArrayLengths where
  w : Nat
  ctr : Nat
  ks : Nat
deriving DecidableEq, Repr

/-- What Construct is given for one element: its identity, and a counter or key image if the host
supplies one as a whole (R143, R148; log 12). -/
structure ElementSpec where
  row : Nat
  col : Nat
  ctrImage : Option (List Half)
  keyImage : Option (List Half)
deriving DecidableEq, Repr

/-- The actions of the host (R163). An element is named by its identity (R156). -/
inductive HostAction where
  | reset
  | construct (rows cols : Nat) (lengths : ArrayLengths) (elements : List ElementSpec)
  /-- Load of a stream of operation words -/
  | load (stream : List OpWord)
  /-- Load of a stream of abstract operation terms (R144, R146, 95 V90; log 11) -/
  | loadTerms (stream : List Instr)
  | hostWrite (row col : Half) (array : ArrayName) (j : Nat) (v : Half)
  | start
  | hostRead (row col : Half) (array : ArrayName) (j : Nat)
  | readTrace (row col : Half)
  | readStatus
deriving DecidableEq, Repr

/-- What the host gets back from an action (R163). -/
inductive HostReply where
  /-- the action returns nothing -/
  | ack
  /-- the entry read; no value if it was never written (U13) -/
  | entry (v : Option Half)
  | trace (t : List (Nat × Half))
  /-- the number of STATUS (R26), the code of ERR and its information word (R142) -/
  | status (status code info : Nat)
deriving DecidableEq, Repr

/-- The whole machine: the grid's elements, the sequencer's part, and the host's side (R156, R157). -/
structure State where
  /-- the elements of the grid; before the first Construct the one of the 1 x 1 grid (log 5) -/
  elems : List Element
  /-- R, the rows of the grid (R148) -/
  rows : Nat
  /-- C, the columns of the grid (R148) -/
  cols : Nat
  /-- PROG, if a stream is loaded (R30, R163) -/
  stream : Option (List OpWord)
  /-- the index of the next operation word (R27) -/
  pc : Nat
  /-- STATUS of every element (R26) -/
  status : Status
  /-- ERR of every element (R26) -/
  err : Err
  /-- the grid was REJECTED before the last Reset and no Construct has succeeded since: no operation will
  execute "until the element is constructed again" (R26, R152; log 26) -/
  mustConstruct : Bool
  /-- the model's own: the seed of the next element to be reset or constructed (log 23) -/
  draws : Nat
  /-- the model's own: the host's actions still to come, first one first (log 7) -/
  pending : List HostAction
  /-- the model's own: what the host got back, oldest first (log 7) -/
  replies : List HostReply
deriving DecidableEq, Repr

/-- Why a step stops with a fault. -/
inductive Fault where
  /-- Raised by `step` when no run is in progress and the host has no action pending: "no further step
  exists" (R27, R152). Safe: the hardware does nothing either. -/
  | noStep
  /-- Raised by `step` when the word at `pc` is reserved, in a stream that did not pass Load: stuck
  (U2). Safe: nothing is claimed of such a step. -/
  | illegalWord (pc : Nat)
  /-- Raised by every meaning with operands when it is handed a term that the construction checks refuse
  (R65, R71, R117, U2 to U5): such a term is never executed. Safe: no word decodes to one. -/
  | illegalTerm (e : TermError)
  /-- Raised by `step` when the host's next action is one that R163 does not allow in this state: "an action
  not in it does not exist" (R163), "the model has no such move (stuck for the host)" (U12), Start on a
  REJECTED element "has no step" (R152), nor has it on one reset from there and not constructed again (R26). Safe: nothing is claimed of such a step (log 8). -/
  | hostActionNotAllowed
deriving DecidableEq, Repr

/-- Why a step has no meaning in the model. -/
inductive Refusal where
  /-- Raised by an arm of `exec` whose instruction has no meaning yet; no arm raises it now. Safe. -/
  | notModelled (mnemonic : String)
deriving DecidableEq, Repr

/-- The machine right after reset (R33, R170): STATUS IDLE, ERR 0, pc 0, the stream unloaded, and every
element in the reset state. Before the first Construct the grid is the least one, 1 x 1 (log 5). -/
def State.reset : State where
  elems := [Element.blank 0 0 0]
  rows := 1
  cols := 1
  stream := none
  pc := 0
  status := .idle
  err := Err.zero
  mustConstruct := false
  draws := 1
  pending := []
  replies := []

end Sys2Proof.Machine
end

