-- ==== Sys2Proof/Machine/Ops.lean ====
section
/-! DEFINITION. The named operations over the storage of an element and over the machine: reading and
writing an entry, recording FAULT, issuing an operation to every element, fetching, the end of a run,
and the rejection of a construction (which stands where another machine takes an exception, 60 R151). -/

namespace Sys2Proof.Machine

/-- `H[h]` with its mark: W at 0..7, CTR at 8..15, KS at 16..25 (20 R42). Other numbers name nothing
and read as blank; no legal operation gives one (R48; log 20). -/
def Element.entry (e : Element) (h : Nat) : Entry :=
  if h < 8 then (e.w[h]?).getD Entry.blank
  else if h < 16 then (e.ctr[h - 8]?).getD Entry.blank
  else (e.ks[h - 16]?).getD Entry.blank

/-- The value an operation reads from `H[h]`: what was written there, or the free value of an entry
that nothing has written (R35, U1; log 1). -/
def Element.half (e : Element) (h : Nat) : Half :=
  let c := e.entry h
  if c.written then c.val else Config.unwritten e.seed h

/-- ROW as KEYID reads it: what Construct gave, or a free value before it (R25, R170; log 5). -/
def Element.rowValue (e : Element) : Half :=
  if e.identified then e.row else Config.unassignedRow e.seed

/-- COL as KEYID reads it: what Construct gave, or a free value before it (R25, R170; log 5). -/
def Element.colValue (e : Element) : Half :=
  if e.identified then e.col else Config.unassignedCol e.seed

/-- `W[j] <- v`, marking the entry written (R35). -/
def Element.writeW (e : Element) (j : Nat) (v : Half) : Element :=
  { e with w := e.w.setIfInBounds j ⟨v, true⟩ }

/-- `CTR[j] <- v`, marking the entry written: the host's alone (R23, R56). -/
def Element.writeCtr (e : Element) (j : Nat) (v : Half) : Element :=
  { e with ctr := e.ctr.setIfInBounds j ⟨v, true⟩ }

/-- `KS[j] <- v`, marking the entry written (R35). -/
def Element.writeKs (e : Element) (j : Nat) (v : Half) : Element :=
  { e with ks := e.ks.setIfInBounds j ⟨v, true⟩ }

/-- FAULT <- UNINIT(h, pc), h the first unwritten entry in the operation's read order `reads`; a FAULT
that is set stays (R35). The operation goes on with the free value of that entry (log 1, log 2). -/
def Element.noteReads (pc : Nat) (reads : List Nat) (e : Element) : Element :=
  match e.fault with
  | some _ => e
  | none =>
    match reads.find? (fun h => !(e.entry h).written) with
    | some h => { e with fault := some ⟨h, pc⟩ }
    | none => e

/-- One operation on the whole grid: every element reads and computes on its own state alone, and the
shared pc goes on by one (R27, R127, R156, R157). -/
def State.lockstep (reads : List Nat) (body : Element → Element) (s : State) : State :=
  { s with elems := s.elems.map (fun e => body (e.noteReads s.pc reads)), pc := s.pc + 1 }

/-- Issue the operation `i`, whose read order is `reads` and whose effect on an element is `body`. A
term that the construction checks refuse is not executed (R65, R71, R117; log 10). -/
def issue (i : Instr) (reads : List Nat) (body : Element → Element) (s : State) :
    Host.Outcome State Fault Refusal :=
  match i.check with
  | none => .next (s.lockstep reads body)
  | some e => .fault (.illegalTerm e)

/-- LEN, the length of the stream; 0 while none is loaded (R27). -/
def State.len (s : State) : Nat := (s.stream.getD []).length

/-- The word PROG[pc] as the decoder reads it; nothing at or beyond the end of the stream (R27, R52). -/
def State.fetch (s : State) : Option (Except DecodeError Instr) :=
  ((s.stream.getD [])[s.pc]?).map decode

/-- The end of a run: when a run in progress has pc = LEN, STATUS <- DONE (R27, R160; log 9). -/
def State.endRun (s : State) : State :=
  if s.status = .running ∧ s.len ≤ s.pc then { s with status := .done } else s

/-- The whole effect of a construction error: ERR <- (code, information), STATUS <- REJECTED for every
element, nothing else (60 R141, R151). -/
def State.reject (err : Err) (s : State) : State := { s with status := .rejected, err := err }

/-- The way out of REJECTED, and the effect of the host's Reset (R152, R163, R170): every element takes the
reset values, its unwritten contents drawn anew (log 23), and the stream is unloaded. The grid keeps its
elements (log 5); the host's own side is no state of the machine and stays. Reset alone is no recovery from
REJECTED: that a new Construct is still due is kept in `mustConstruct` (R26, R152, D14; log 26). -/
def State.toReset (s : State) : State :=
  { s with
    elems := s.elems.mapIdx (fun k e => Element.blank e.row e.col (s.draws + k))
    stream := none
    pc := 0
    status := .idle
    err := Err.zero
    mustConstruct := s.mustConstruct || s.status == .rejected
    draws := s.draws + s.elems.length }

/-- The number of a STATUS (R26). -/
def Status.number : Status → Nat
  | .idle => 0
  | .running => 1
  | .done => 2
  | .rejected => 3

/-- The number of a construction-error code (60 R142). -/
def ErrCode.number : ErrCode → Nat
  | .none => 0
  | .rotAmount => 1
  | .arrayLength => 2
  | .grid => 3
  | .illegalOp => 4
  | .scalar => 5

/-- What ReadStatus returns: STATUS and ERR as numbers (R26, R142, R163). -/
def State.statusReply (s : State) : HostReply :=
  .status s.status.number s.err.code.number s.err.info

end Sys2Proof.Machine
end

