-- ==== Sys2Proof/Machine/Operands.lean ====
section
/-! DEFINITION. Every operand form: slots and the Word32 views of the three arrays (10_state.md R22;
20_memory.md R41, R43), the immediate (30_encoding.md R66), and the entries each form reads, in order. -/

namespace Sys2Proof.Machine

/-- `S[s] = (H[2s], H[2s+1])`, the high half first (R41, R43). -/
def Element.slot (e : Element) (s : Nat) : Word32 := ⟨e.half (2 * s), e.half (2 * s + 1)⟩

/-- `Wd[i]`, slot i (R10, R43). -/
def Element.wd (e : Element) (i : Nat) : Word32 := e.slot i

/-- `Cd[i]`, slot 4 + i (R10, R43). -/
def Element.cd (e : Element) (i : Nat) : Word32 := e.slot (4 + i)

/-- `Kd[i]`, slot 8 + i; `Kd[4]` is the parity word (R10, R43). -/
def Element.kd (e : Element) (i : Nat) : Word32 := e.slot (8 + i)

/-- `Wd[i] <- x` (R10, R22). -/
def Element.setWd (e : Element) (i : Nat) (x : Word32) : Element :=
  (e.writeW (2 * i) x.hi).writeW (2 * i + 1) x.lo

/-- `Kd[i] <- x` (R10, R22). -/
def Element.setKd (e : Element) (i : Nat) (x : Word32) : Element :=
  (e.writeKs (2 * i) x.hi).writeKs (2 * i + 1) x.lo

/-- The Word32 of an immediate or scalar, `(0x0000, zext_16(imm))` (R66, R114). -/
def scalarWord (imm : Nat) : Word32 := ⟨0, BitVec.ofNat 16 imm⟩

/-- The flat indices a read of slot `s` takes, in order: high half, low half (R35, R43). -/
def slotReads (s : Nat) : List Nat := [2 * s, 2 * s + 1]

/-- The flat indices a read of `Kd[i]` takes, in order. -/
def kdReads (i : Nat) : List Nat := slotReads (8 + i)

/-- KS[0..7] in index order: what the parity computation reads (R112). -/
def keyReads : List Nat := [16, 17, 18, 19, 20, 21, 22, 23]

/-- CTR[0..7] in index order. -/
def counterReads : List Nat := [8, 9, 10, 11, 12, 13, 14, 15]

end Sys2Proof.Machine
end

