-- ==== Sys2Proof/Machine/Arith.lean ====
section
/-! DEFINITION. The family of slot arithmetic: ADD32, ADDI32, XOR32, ROTL32
(40_halfword_arithmetic.md R88, R89, R92, R91). -/

namespace Sys2Proof.Machine

/-- ADD32: `S[d] <- Add32(S[a], S[b])` (R88). -/
def execAdd32 (d : Fin 4) (a b : Nat) (s : State) : Host.Outcome State Fault Refusal :=
  issue (.add32 d a b) (slotReads a ++ slotReads b)
    (fun e => e.setWd d (add32 (e.slot a) (e.slot b))) s

/-- ADDI32: `S[d] <- Add32(S[a], (0, imm4))` (R89). -/
def execAddi32 (d : Fin 4) (a imm : Nat) (s : State) : Host.Outcome State Fault Refusal :=
  issue (.addi32 d a imm) (slotReads a)
    (fun e => e.setWd d (add32 (e.slot a) (scalarWord imm))) s

/-- XOR32: `S[d] <- Xor32(S[a], S[b])` (R92). -/
def execXor32 (d : Fin 4) (a b : Nat) (s : State) : Host.Outcome State Fault Refusal :=
  issue (.xor32 d a b) (slotReads a ++ slotReads b)
    (fun e => e.setWd d (xor32 (e.slot a) (e.slot b))) s

/-- ROTL32: `S[d] <- Rotl32(S[a], amt)` (R91). -/
def execRotl32 (d : Fin 4) (a amt : Nat) (s : State) : Host.Outcome State Fault Refusal :=
  issue (.rotl32 d a amt) (slotReads a)
    (fun e => e.setWd d (rotl32 (e.slot a) amt)) s

end Sys2Proof.Machine
end

