-- ==== Sys2Proof/Machine/Diagnostic.lean ====
section
/-! DEFINITION. The diagnostic operation DUMP (44_diagnostic.md R130). -/

namespace Sys2Proof.Machine

/-- `Trace(h, H[h])`: append the pair to TRACE (R130). -/
def Element.dumpBody (h : Nat) (e : Element) : Element :=
  { e with trace := e.trace ++ [(h, e.half h)] }

/-- DUMP (R130). -/
def execDump (h : Nat) (s : State) : Host.Outcome State Fault Refusal :=
  issue (.dump h) [h] (Element.dumpBody h) s

end Sys2Proof.Machine
end

