-- ==== Sys2Proof/Machine/Tables.lean ====
section
/-! DEFINITION. The constants of the hardware: the rotation table ROT and the parity constant PARITY32
(00_scope.md R6, R7; 42_key_schedule.md R113; 10_state.md R34; log 19). -/

namespace Sys2Proof.Machine

/-- ROT[0..15] (R6). -/
def rotTable : List Nat := [10, 26, 11, 21, 13, 27, 23, 5, 6, 20, 17, 11, 25, 10, 18, 20]

/-- `ROT[i mod 16]`: the table is "indexed modulo 16" (R102). -/
def rot (i : Nat) : Nat := rotTable.getD (i % 16) 0

/-- PARITY32 = 0x1BD11BDA, as halves (R6, R113). -/
def parity32 : Word32 := ⟨0x1BD1, 0x1BDA⟩

/-- NROUNDS (R6). -/
def numRounds : Nat := 20

end Sys2Proof.Machine
end

