-- ==== Sys2Proof/Machine/KeySchedule.lean ====
section
/-! DEFINITION. The family of the key schedule: KEYID, KEYSCHED, INJECT (42_key_schedule.md R110, R112,
R114). -/

namespace Sys2Proof.Machine

/-- The key words from the identity: KS[0..5] <- 0, KS[6] <- ROW + 1, KS[7] <- COL + 1 (R110). The sums
do not wrap, since Construct bounds ROW and COL by 65534 (R25, R148; log 21). -/
def Element.keyidBody (e : Element) : Element :=
  ((((((((e.writeKs 0 0).writeKs 1 0).writeKs 2 0).writeKs 3 0).writeKs 4 0).writeKs 5 0).writeKs 6
    (e.rowValue + 1)).writeKs 7 (e.colValue + 1))

/-- The parity word: PARITY32 with each key word folded in by XOR (R112). -/
def Element.parityWord (e : Element) : Word32 :=
  xor32 (xor32 (xor32 (xor32 parity32 (e.kd 0)) (e.kd 1)) (e.kd 2)) (e.kd 3)

/-- `Kd[4] <- p` (R112). -/
def Element.keyschedBody (e : Element) : Element := e.setKd 4 e.parityWord

/-- `Wd[i] <- Add32(Wd[i], Kd[(q + i) mod 5])` (R114). -/
def Element.injectWord (q i : Nat) (e : Element) : Element :=
  e.setWd i (add32 (e.wd i) (e.kd ((q + i) % 5)))

/-- The four key additions and the scalar addition of injection q (R114). -/
def Element.injectBody (q : Nat) (e : Element) : Element :=
  let e := (((e.injectWord q 0).injectWord q 1).injectWord q 2).injectWord q 3
  e.setWd 3 (add32 (e.wd 3) (scalarWord q))

/-- The entries injection q reads, in order: for each i, Wd[i] and then Kd[(q + i) mod 5] (R114). -/
def injectReads (q : Nat) : List Nat :=
  slotReads 0 ++ kdReads ((q + 0) % 5) ++ slotReads 1 ++ kdReads ((q + 1) % 5) ++
    slotReads 2 ++ kdReads ((q + 2) % 5) ++ slotReads 3 ++ kdReads ((q + 3) % 5)

/-- KEYID, which reads no entry (R110). -/
def execKeyid (s : State) : Host.Outcome State Fault Refusal :=
  issue .keyid [] Element.keyidBody s

/-- KEYSCHED (R112). -/
def execKeysched (s : State) : Host.Outcome State Fault Refusal :=
  issue .keysched keyReads Element.keyschedBody s

/-- INJECT (R114). -/
def execInject (q : Nat) (s : State) : Host.Outcome State Fault Refusal :=
  issue (.inject q) (injectReads q) (Element.injectBody q) s

end Sys2Proof.Machine
end

