-- ==== Sys2Proof/Machine/Mix.lean ====
section
/-! DEFINITION. The family of the ARX network: MIX and ROUND (41_mix_round.md R100, R102). -/

namespace Sys2Proof.Machine

/-- The three steps of Mix on Wd[x] and Wd[y], each seeing the writes of the one before (R100, R177). -/
def Element.mix (x y t : Nat) (e : Element) : Element :=
  let e := e.setWd x (add32 (e.wd x) (e.wd y))
  let e := e.setWd y (rotl32 (e.wd y) t)
  e.setWd y (xor32 (e.wd y) (e.wd x))

/-- The entries Mix reads, in order (R100). -/
def mixReads (x y : Nat) : List Nat := slotReads x ++ slotReads y

/-- The two Mix calls of round n (R102). -/
def Element.roundBody (n : Nat) (e : Element) : Element :=
  let t0 := rot (2 * n)
  let t1 := rot (2 * n + 1)
  if n % 2 = 0 then (e.mix 0 1 t0).mix 2 3 t1 else (e.mix 0 3 t0).mix 2 1 t1

/-- The entries round n reads, in the read order of its two Mix calls (R102). -/
def roundReads (n : Nat) : List Nat :=
  if n % 2 = 0 then mixReads 0 1 ++ mixReads 2 3 else mixReads 0 3 ++ mixReads 2 1

/-- MIX (R100). -/
def execMix (ma mb : Fin 4) (amt : Nat) (s : State) : Host.Outcome State Fault Refusal :=
  issue (.mix ma mb amt) (mixReads ma mb) (Element.mix ma mb amt) s

/-- ROUND (R102). -/
def execRound (n : Nat) (s : State) : Host.Outcome State Fault Refusal :=
  issue (.round n) (roundReads n) (Element.roundBody n) s

end Sys2Proof.Machine
end

