-- ==== Sys2Proof/Machine/Engine.lean ====
section
/-! DEFINITION. The generator engine: INIT and GEN (43_engine.md R121, R123). -/

namespace Sys2Proof.Machine

/-- `Wd[i] <- Add32(Cd[i], Kd[i])` (R121). -/
def Element.initWord (i : Nat) (e : Element) : Element :=
  e.setWd i (add32 (e.cd i) (e.kd i))

/-- Initialize: the parity word, then the four sums (R121). -/
def Element.initBody (e : Element) : Element :=
  (((e.keyschedBody.initWord 0).initWord 1).initWord 2).initWord 3

/-- One turn of GEN's loop: from round 4 on an injection before every fourth round, then the round (R123). -/
def Element.genTurn (e : Element) (n : Nat) : Element :=
  (if n % 4 = 0 ∧ 0 < n then e.injectBody (n / 4) else e).roundBody n

/-- The whole generator: Initialize, rounds 0 to 19 with their injections, Inject(5) (R123, R128). -/
def Element.genBody (e : Element) : Element :=
  ((List.range numRounds).foldl Element.genTurn e.initBody).injectBody 5

/-- INIT; it reads KS[0..7] first, then CTR[0..7] (R121). -/
def execInit (s : State) : Host.Outcome State Fault Refusal :=
  issue .init (keyReads ++ counterReads) Element.initBody s

/-- GEN, one step; once Init has run every entry it reads has been written (R123, R183). -/
def execGen (s : State) : Host.Outcome State Fault Refusal :=
  issue .gen (keyReads ++ counterReads) Element.genBody s

end Sys2Proof.Machine
end

