-- ==== Sys2Proof/Machine/Dispatch.lean ====
section
/-! DEFINITION. One arm per operation of the element (30_encoding.md R60). -/

namespace Sys2Proof.Machine

/-- The effect of one operation. -/
def exec (i : Instr) (s : State) : Host.Outcome State Fault Refusal :=
  match i with
  | .add32 d a b => Sys2Proof.Machine.execAdd32 d a b s
  | .addi32 d a imm => Sys2Proof.Machine.execAddi32 d a imm s
  | .xor32 d a b => Sys2Proof.Machine.execXor32 d a b s
  | .rotl32 d a amt => Sys2Proof.Machine.execRotl32 d a amt s
  | .mix ma mb amt => Sys2Proof.Machine.execMix ma mb amt s
  | .inject q => Sys2Proof.Machine.execInject q s
  | .round n => Sys2Proof.Machine.execRound n s
  | .keyid => Sys2Proof.Machine.execKeyid s
  | .keysched => Sys2Proof.Machine.execKeysched s
  | .init => Sys2Proof.Machine.execInit s
  | .gen => Sys2Proof.Machine.execGen s
  | .dump h => Sys2Proof.Machine.execDump h s

end Sys2Proof.Machine
end

