-- ==== Sys2Proof/Machine/HostPort.lean ====
section
/-! DEFINITION. The host: construction and its checks, loading, starting, and the host's access to the
arrays (60_exceptions.md R141 to R151, R163; 20_memory.md R56; 70_reset_and_hazards.md R170). -/

namespace Sys2Proof.Machine

/-- The code of a refused term (R142). -/
def termErrorCode : TermError → ErrCode
  | .illegalOp => .illegalOp
  | .rotAmount => .rotAmount
  | .scalar => .scalar

/-- CE_GRID's condition, negated (R148): the bounds of R and C; one identity for each element of the
grid (log 12), each inside the grid, all different. -/
def gridOk (rows cols : Nat) (elements : List ElementSpec) : Bool :=
  decide (1 ≤ rows ∧ rows ≤ Config.maxGrid ∧ 1 ≤ cols ∧ cols ≤ Config.maxGrid) &&
    decide (elements.length = rows * cols) &&
    elements.all (fun p => decide (p.row < rows ∧ p.col < cols)) &&
    decide (elements.map (fun p => (p.row, p.col))).Nodup

/-- A supplied image has the right number of entries; no image is no error (R143). -/
def imageOk (n : Nat) : Option (List Half) → Bool
  | none => true
  | some vs => vs.length == n

/-- The checks of Construct in the order of R150: CE_GRID, then CE_ARRAY_LENGTH for W, CTR, KS. -/
def constructError (rows cols : Nat) (lengths : ArrayLengths) (elements : List ElementSpec) :
    Option Err :=
  if !gridOk rows cols elements then some ⟨.grid, 0⟩
  else if lengths.w ≠ Config.lengthW then some ⟨.arrayLength, 0⟩
  else if lengths.ctr ≠ Config.lengthCtr ∨
      !elements.all (fun p => imageOk Config.lengthCtr p.ctrImage) then some ⟨.arrayLength, 1⟩
  else if lengths.ks ≠ Config.lengthKs ∨
      !elements.all (fun p => imageOk Config.lengthKeyImage p.keyImage) then some ⟨.arrayLength, 2⟩
  else none

/-- Entry j of an array made from an image: the image's value, written, or a blank entry (R163; log 12). -/
def imageEntry (image : Option (List Half)) (j : Nat) : Entry :=
  match (image.getD [])[j]? with
  | some v => ⟨v, true⟩
  | none => Entry.blank

/-- An element as Construct makes it: its ROW and COL, three arrays of no-value entries but for a
supplied image (R163), TRACE empty (R29). DESIGN CHOICE: its FAULT is none, also where a run before
Construct had set one, which R163 and R35 leave open (log 25). -/
def newElement (seed : Nat) (p : ElementSpec) : Element where
  w := Vector.replicate 8 Entry.blank
  ctr := Vector.ofFn (fun j => imageEntry p.ctrImage j)
  ks := Vector.ofFn (fun j => imageEntry p.keyImage j)
  row := BitVec.ofNat 16 p.row
  col := BitVec.ofNat 16 p.col
  identified := true
  trace := []
  fault := none
  seed := seed

/-- The check of the rotation table (R142, R150, U9). -/
def rotTableError (table : List Nat) : Option Err :=
  if table.any (fun t => 31 < t) then some ⟨.rotAmount, 0xFFFF⟩ else none

/-- The first illegal word of a stream, counting from k: CE_ILLEGAL_OP with its index (R145). -/
def firstIllegalWord (k : Nat) : List OpWord → Option Err
  | [] => none
  | w :: ws => if legalWord w then firstIllegalWord (k + 1) ws else some ⟨.illegalOp, k⟩

/-- The first refused term of an abstract stream, counting from k (R144, R146, R150). -/
def firstTermError (k : Nat) : List Instr → Option Err
  | [] => none
  | i :: is =>
    match i.check with
    | none => firstTermError (k + 1) is
    | some e => some ⟨termErrorCode e, k⟩

/-- The element is the one the host names by (row, col): its identity (R156), or before Construct the name
it had (log 5). -/
def Element.isAt (row col : Half) (e : Element) : Bool := e.row == row && e.col == col

/-- The entry `array[j]`; nothing beyond the array's length (R21). -/
def Element.arrayEntry (e : Element) : ArrayName → Nat → Option Entry
  | .w, j => e.w[j]?
  | .ctr, j => e.ctr[j]?
  | .ks, j => e.ks[j]?

/-- What HostRead returns of an entry: no value if it was never written (R163, U13). -/
def Entry.hostValue (c : Entry) : Option Half := if c.written then some c.val else none

/-- The entries HostWrite may name: CTR[0..7] and KS[0..7] (R56, R163). -/
def hostWritable : ArrayName → Nat → Bool
  | .w, _ => false
  | .ctr, j => j < 8
  | .ks, j => j < 8

/-- HostWrite on one element (R56). -/
def Element.hostWrite (array : ArrayName) (j : Nat) (v : Half) (e : Element) : Element :=
  match array with
  | .w => e
  | .ctr => e.writeCtr j v
  | .ks => e.writeKs j v

/-- Construct has been done since reset: some element has its ROW and COL (R163). -/
def State.constructed (s : State) : Bool := s.elems.any Element.identified

/-- STATUS is IDLE or DONE: the condition of most host actions (R163). -/
def State.atRest (s : State) : Bool := s.status == .idle || s.status == .done

/-- The end of Load: the error, or the stream taken with pc = 0 and STATUS = IDLE (R163). -/
def State.takeStream (error : Option Err) (stream : List OpWord) (s : State) : State :=
  match error with
  | some err => s.reject err
  | none => { s with stream := some stream, pc := 0, status := .idle }

/-- Construct (R141, R163): the checks, and on success a grid of new elements. DESIGN CHOICE: a stream loaded
before it, and pc, stay as they are, which the Construct row of R163 leaves open (log 27). -/
def State.construct (rows cols : Nat) (lengths : ArrayLengths) (elements : List ElementSpec)
    (s : State) : State :=
  match constructError rows cols lengths elements with
  | some err => s.reject err
  | none =>
    { s with
      elems := elements.mapIdx (fun k p => newElement (s.draws + k) p)
      rows := rows
      cols := cols
      status := .idle
      mustConstruct := false
      draws := s.draws + elements.length }

/-- One host action (R163): what it returns and the state after it, or nothing where R163 does not
allow it. Construct is allowed once after a Reset (log 13), and Start not between a rejection and the next
Construct (R26, R152; log 26). -/
def State.hostAct (a : HostAction) (s : State) : Option (HostReply × State) :=
  match a with
  | .reset => if s.status = .running then none else some (.ack, s.toReset)
  | .construct rows cols lengths elements =>
    if s.atRest && !s.constructed then some (.ack, s.construct rows cols lengths elements) else none
  | .load ws =>
    if s.atRest then
      some (.ack, s.takeStream ((rotTableError rotTable).or (firstIllegalWord 0 ws)) ws)
    else none
  | .loadTerms is =>
    if s.atRest then
      some (.ack, s.takeStream ((rotTableError rotTable).or (firstTermError 0 is)) (is.map encode))
    else none
  | .hostWrite row col array j v =>
    if s.atRest && hostWritable array j && s.elems.any (Element.isAt row col) then
      some (.ack, { s with
        elems := s.elems.map (fun e => if e.isAt row col then e.hostWrite array j v else e) })
    else none
  | .start =>
    if s.atRest && s.stream.isSome && !s.mustConstruct then
      some (.ack, { s with pc := 0, status := .running : State }.endRun)
    else none
  | .hostRead row col array j =>
    if s.atRest then
      match s.elems.find? (Element.isAt row col) with
      | none => none
      | some e => (e.arrayEntry array j).map (fun c => (.entry c.hostValue, s))
    else none
  | .readTrace row col =>
    if s.atRest then
      (s.elems.find? (Element.isAt row col)).map (fun e => (.trace e.trace, s))
    else none
  | .readStatus => some (s.statusReply, s)

/-- ReadStatus is allowed "always" (R163): if it is the host's next action while a run is in progress, it is
answered, and no other action is (R153; log 7). -/
def State.answerStatus (s : State) : State :=
  match s.pending with
  | .readStatus :: rest => { s with pending := rest, replies := s.replies ++ [s.statusReply] }
  | _ => s

/-- Serve the host's next pending action and keep its reply (log 7); nothing if it is not allowed. -/
def State.serve (a : HostAction) (rest : List HostAction) (s : State) : Option State :=
  ({ s with pending := rest : State }.hostAct a).map
    (fun r => { r.2 with replies := r.2.replies ++ [r.1] })

/-- The stream with the word `w` at index `pc`, the rest as it was (for `withFetchWord`). -/
def streamWithWordAt (pc : Nat) (w : OpWord) (ws : List OpWord) : List OpWord :=
  if pc < ws.length then ws.set pc w else ws ++ List.replicate (pc + 1 - ws.length) w

end Sys2Proof.Machine
end

