-- ==== Sys2Proof/Machine/Step.lean ====
section
/-! DEFINITION. One step of the machine: while a run is in progress, the word at pc on every element
(10_state.md R27); otherwise the host's next action (60_exceptions.md R163). -/

namespace Sys2Proof.Machine

/-- One step of a run: fetch PROG[pc], execute it, and end the run when pc reaches LEN (R27, R160). -/
def stepRun (s : State) : Host.Outcome State Fault Refusal :=
  match s.fetch with
  | none => .next s.endRun
  | some (.error _) => .fault (.illegalWord s.pc)
  | some (.ok i) =>
    match exec i s with
    | .next t => .next t.endRun
    | .fault f => .fault f
    | .refused r => .refused r

/-- One step between runs: the host's next pending action, if there is one and R163 allows it (log 7, log 8). -/
def stepHost (s : State) : Host.Outcome State Fault Refusal :=
  match s.pending with
  | [] => .fault .noStep
  | a :: rest =>
    match s.serve a rest with
    | some t => .next t
    | none => .fault .hostActionNotAllowed

/-- One step: a run in progress goes on, a ReadStatus of the host answered on the way; else the host acts
(R27, R51, R163; log 7). -/
def step (s : State) : Host.Outcome State Fault Refusal :=
  match s.status with
  | .running => stepRun s.answerStatus
  | .idle => stepHost s
  | .done => stepHost s
  | .rejected => stepHost s

/-- `s` with the word `w` at index pc of its stream and a run in progress, so that the next step issues it:
Load and Start done from outside (log 6). -/
def State.withFetchWord (s : State) (_nbits w : Nat) : State :=
  { s with
    stream := some (streamWithWordAt s.pc (BitVec.ofNat 16 w) (s.stream.getD []))
    status := .running
    err := Err.zero }

end Sys2Proof.Machine
end

