-- ==== Sys2Proof/Machine/Assembler.lean ====
section
/-! DEFINITION. The assembler: slot names, operands in the order the spec writes them, the pseudo-instructions
MOV32 and DUMP32, and the reading of a line's text (30_encoding.md R74, R75; 20_memory.md R43; log 24). -/

namespace Sys2Proof.Machine

/-- A slot name: W0..W3, C0..C3, K0..K4 (R43). -/
inductive SlotName where
  | w (i : Fin 4)
  | c (i : Fin 4)
  | k (i : Fin 5)
deriving DecidableEq, Repr

/-- The slot number of a name (R43). -/
def slotNumber : SlotName → Nat
  | .w i => i
  | .c i => 4 + i
  | .k i => 8 + i

/-- The name of slot s; beyond the twelve first slots K4, the last (R43). -/
def slotNameOf (s : Nat) : SlotName :=
  if h : s < 4 then .w ⟨s, h⟩
  else if h' : s - 4 < 4 then .c ⟨s - 4, h'⟩
  else if h'' : s - 8 < 5 then .k ⟨s - 8, h''⟩
  else .k 4

/-- The mnemonics, the two pseudo-instructions among them (R74, R75). -/
inductive Mnemonic where
  | ADD32 | ADDI32 | XOR32 | ROTL32 | MIX | ROUND | INJECT | KEYID | KEYSCHED | INIT | GEN | DUMP
  | MOV32 | DUMP32
deriving DecidableEq, Repr

/-- An operand: a slot name, one half of a slot (`slot.H`, `slot.L`), or a number (R74). -/
inductive Operand where
  | slot (s : SlotName)
  | high (s : SlotName)
  | low (s : SlotName)
  | number (n : Nat)
deriving DecidableEq, Repr

/-- The operations a line stands for, its numbers as written (R74, R75). -/
def lineTerms : Mnemonic → List Operand → Option (List Instr)
  | .ADD32, [.slot (.w d), .slot a, .slot b] => some [.add32 d (slotNumber a) (slotNumber b)]
  | .ADDI32, [.slot (.w d), .slot a, .number imm] => some [.addi32 d (slotNumber a) imm]
  | .XOR32, [.slot (.w d), .slot a, .slot b] => some [.xor32 d (slotNumber a) (slotNumber b)]
  | .ROTL32, [.slot (.w d), .slot a, .number amt] => some [.rotl32 d (slotNumber a) amt]
  | .MIX, [.slot (.w x), .slot (.w y), .number amt] => some [.mix x y amt]
  | .ROUND, [.number n] => some [.round n]
  | .INJECT, [.number q] => some [.inject q]
  | .KEYID, [] => some [.keyid]
  | .KEYSCHED, [] => some [.keysched]
  | .INIT, [] => some [.init]
  | .GEN, [] => some [.gen]
  | .DUMP, [.high s] => some [.dump (2 * slotNumber s)]
  | .DUMP, [.low s] => some [.dump (2 * slotNumber s + 1)]
  | .DUMP, [.number h] => some [.dump h]
  | .MOV32, [.slot (.w d), .slot a] => some [.addi32 d (slotNumber a) 0]
  | .DUMP32, [.slot s] => some [.dump (2 * slotNumber s), .dump (2 * slotNumber s + 1)]
  | _, _ => none

/-- A line assembled: its operations, if every one is legal (R74). -/
def assembleLine (m : Mnemonic) (operands : List Operand) : Option (List Instr) :=
  (lineTerms m operands).filter (fun is => is.all (fun i => i.check == none))

/-- A program assembled to the words of its stream, line by line (R74). -/
def assemble : List (Mnemonic × List Operand) → Option (List OpWord)
  | [] => some []
  | (m, operands) :: rest =>
    match assembleLine m operands, assemble rest with
    | some is, some ws => some (is.map encode ++ ws)
    | _, _ => none

/-- The line that writes an operation (R74). -/
def lineOf : Instr → Mnemonic × List Operand
  | .add32 d a b => (.ADD32, [.slot (.w d), .slot (slotNameOf a), .slot (slotNameOf b)])
  | .addi32 d a imm => (.ADDI32, [.slot (.w d), .slot (slotNameOf a), .number imm])
  | .xor32 d a b => (.XOR32, [.slot (.w d), .slot (slotNameOf a), .slot (slotNameOf b)])
  | .rotl32 d a amt => (.ROTL32, [.slot (.w d), .slot (slotNameOf a), .number amt])
  | .mix ma mb amt => (.MIX, [.slot (.w ma), .slot (.w mb), .number amt])
  | .inject q => (.INJECT, [.number q])
  | .round n => (.ROUND, [.number n])
  | .keyid => (.KEYID, [])
  | .keysched => (.KEYSCHED, [])
  | .init => (.INIT, [])
  | .gen => (.GEN, [])
  | .dump h =>
    (.DUMP, [if h % 2 = 0 then .high (slotNameOf (h / 2)) else .low (slotNameOf (h / 2))])

/-! ### The text of a program (R74) -/

/-- A text cut at every `sep`. -/
def splitAtChar (sep : Char) (text : List Char) : List (List Char) :=
  text.foldr (fun c parts =>
    if c = sep then [] :: parts
    else match parts with
      | [] => [[c]]
      | part :: rest => (c :: part) :: rest) [[]]

/-- A space or a tab. -/
def isBlank (c : Char) : Bool := c == ' ' || c == '\t'

/-- A text without the blanks at its ends. -/
def trimBlanks (text : List Char) : List Char :=
  ((text.dropWhile isBlank).reverse.dropWhile isBlank).reverse

/-- The value of a digit, decimal or hexadecimal. -/
def digitValue (c : Char) : Option Nat :=
  if 48 ≤ c.toNat ∧ c.toNat ≤ 57 then some (c.toNat - 48)
  else if 65 ≤ c.toNat ∧ c.toNat ≤ 70 then some (c.toNat - 55)
  else if 97 ≤ c.toNat ∧ c.toNat ≤ 102 then some (c.toNat - 87)
  else none

/-- A number of digits below `base`, most significant first, read on from `n`. -/
def readDigits (base n : Nat) : List Char → Option Nat
  | [] => some n
  | c :: cs =>
    match digitValue c with
    | some d => if d < base then readDigits base (n * base + d) cs else none
    | none => none

/-- A number, decimal or `0x` hexadecimal (R74). -/
def readNumber : List Char → Option Nat
  | [] => none
  | ['0', 'x'] => none
  | '0' :: 'x' :: digits => readDigits 16 0 digits
  | digits => readDigits 10 0 digits

/-- A slot name (R43). -/
def readSlot : List Char → Option SlotName
  | ['W', '0'] => some (.w 0) | ['W', '1'] => some (.w 1) | ['W', '2'] => some (.w 2)
  | ['W', '3'] => some (.w 3) | ['C', '0'] => some (.c 0) | ['C', '1'] => some (.c 1)
  | ['C', '2'] => some (.c 2) | ['C', '3'] => some (.c 3) | ['K', '0'] => some (.k 0)
  | ['K', '1'] => some (.k 1) | ['K', '2'] => some (.k 2) | ['K', '3'] => some (.k 3)
  | ['K', '4'] => some (.k 4)
  | _ => none

/-- An operand: a slot, a half of a slot, or a number (R74). -/
def readOperand (text : List Char) : Option Operand :=
  match text with
  | [a, b, '.', 'H'] => (readSlot [a, b]).map .high
  | [a, b, '.', 'L'] => (readSlot [a, b]).map .low
  | _ => ((readSlot text).map Operand.slot).or ((readNumber text).map Operand.number)

/-- A mnemonic, in capitals (R74). -/
def readMnemonic : List Char → Option Mnemonic
  | ['A', 'D', 'D', '3', '2'] => some .ADD32
  | ['A', 'D', 'D', 'I', '3', '2'] => some .ADDI32
  | ['X', 'O', 'R', '3', '2'] => some .XOR32
  | ['R', 'O', 'T', 'L', '3', '2'] => some .ROTL32
  | ['M', 'I', 'X'] => some .MIX
  | ['R', 'O', 'U', 'N', 'D'] => some .ROUND
  | ['I', 'N', 'J', 'E', 'C', 'T'] => some .INJECT
  | ['K', 'E', 'Y', 'I', 'D'] => some .KEYID
  | ['K', 'E', 'Y', 'S', 'C', 'H', 'E', 'D'] => some .KEYSCHED
  | ['I', 'N', 'I', 'T'] => some .INIT
  | ['G', 'E', 'N'] => some .GEN
  | ['D', 'U', 'M', 'P'] => some .DUMP
  | ['M', 'O', 'V', '3', '2'] => some .MOV32
  | ['D', 'U', 'M', 'P', '3', '2'] => some .DUMP32
  | _ => none

/-- All of a list's answers, if every one is there. -/
def allSome {α : Type} : List (Option α) → Option (List α)
  | [] => some []
  | none :: _ => none
  | some a :: rest => (allSome rest).map (a :: ·)

/-- A line of text: nothing for an empty one, else its mnemonic and its operands, separated by commas; what
follows `;` is a comment (R74). -/
def readLine (text : List Char) : Option (Option (Mnemonic × List Operand)) :=
  let line := trimBlanks (text.takeWhile (· ≠ ';'))
  if line = [] then some none
  else
    let operands := trimBlanks (line.dropWhile (fun c => !isBlank c))
    match readMnemonic (line.takeWhile (fun c => !isBlank c)),
      if operands = [] then some []
      else allSome ((splitAtChar ',' operands).map (fun t => readOperand (trimBlanks t))) with
    | some m, some os => some (some (m, os))
    | _, _ => none

/-- A program's text, one operation per line, as the words of its stream (R74). -/
def assembleText (text : List Char) : Option (List OpWord) :=
  match allSome ((splitAtChar '\n' text).map readLine) with
  | some lines => assemble (lines.filterMap id)
  | none => none

end Sys2Proof.Machine
end

