-- ==== Sys2Proof/Safety.lean ====
section
/-! DEFINITION. What counts as a sound state and a safe run: the invariant of the machine (10_state.md
R25, R26, R27, R30; 60_exceptions.md R148) and the final states (R35, R160). -/

namespace Sys2Proof.Machine

/-- What holds in every state the machine can be in: the stream passed Load, pc lies in it, STATUS and ERR
agree, and the grid is one that Construct admits. -/
structure State.Inv (s : State) : Prop where
  /-- every word of the stream is legal (R71, R145) -/
  streamLegal : ∀ w ∈ s.stream.getD [], legalWord w = true
  /-- 0 <= pc <= LEN (R27) -/
  pcBound : s.pc ≤ s.len
  /-- a run in progress has a word to issue (R27) -/
  running : s.status = .running → s.pc < s.len
  /-- a run that ended has pc = LEN (R160) -/
  ended : s.status = .done → s.pc = s.len
  /-- ERR holds 0 exactly when STATUS is not REJECTED (R26) -/
  errAgrees : s.err = Err.zero ↔ s.status ≠ .rejected
  /-- the grid has R x C elements, R and C within the bounds of R148 -/
  gridSize : (1 ≤ s.rows ∧ s.rows ≤ Config.maxGrid) ∧ (1 ≤ s.cols ∧ s.cols ≤ Config.maxGrid) ∧
    s.elems.length = s.rows * s.cols
  /-- every identity lies inside the grid (R25) -/
  insideGrid : ∀ e ∈ s.elems, e.row.toNat < s.rows ∧ e.col.toNat < s.cols
  /-- no two elements share an identity (R148, R156) -/
  identities : (s.elems.map (fun e => (e.row, e.col))).Nodup
  /-- all elements are constructed together, and reset together (R156) -/
  together : (∀ e ∈ s.elems, e.identified = true) ∨ ∀ e ∈ s.elems, e.identified = false
  /-- between a rejection and the next Construct no run is in progress or has ended, and no element has been
  constructed (R26, R152; log 26) -/
  awaiting : s.mustConstruct = true →
    s.status ≠ .running ∧ s.status ≠ .done ∧ s.constructed = false
  /-- the model's own: no two elements share a seed, and the next seed is fresh (log 23) -/
  seedsFresh : ∀ e ∈ s.elems, e.seed < s.draws
  seedsDistinct : (s.elems.map Element.seed).Nodup

/-- A final state: STATUS is DONE and no element has a FAULT (R35, R160). -/
def State.Final (s : State) : Prop := s.status = .done ∧ ∀ e ∈ s.elems, e.fault = none

/-- A safe run of `k` steps from `s`: it meets no stop of the model, and ends in a final state. -/
def SafeRun (k : Nat) (s : State) : Prop :=
  ∃ t, Host.Core.run ⟨State, Fault, Refusal, step, State.reset⟩ k s = .next t ∧ t.Final

end Sys2Proof.Machine
end

