-- ==== Sys2Proof/Certificates/Slice0/Obligations.lean ====
section
/-! DEFINITION. The statements for the provers, from the numbered rules of spec/, with the vocabulary they
are written in (namespace Sys2Proof.Claims). -/

namespace Sys2Proof.Claims

open Sys2Proof.Machine

/-- The two entry writes of a Word32 at an even flat index: high half first (R41). -/
def wordAt (h : Nat) (x : Word32) : List (Nat × Half) := [(h, x.hi), (h + 1, x.lo)]

/-- From `e` to `e'` exactly the entries `writes` are written, each marked written with its value; every
other entry, with its mark, ROW, COL with their mark and the seed stay. -/
def Becomes (writes : List (Nat × Half)) (e e' : Element) : Prop :=
  (∀ p ∈ writes, e'.entry p.1 = ⟨p.2, true⟩) ∧
  (∀ h, h ∉ writes.map Prod.fst → e'.entry h = e.entry h) ∧
  e'.row = e.row ∧ e'.col = e.col ∧ e'.identified = e.identified ∧ e'.seed = e.seed

/-- FAULT after an operation at `pc` that reads `reads` in this order: as it was if set, else UNINIT of the
first entry read that nothing has written, else none (R35; that the operation goes on is log 1 and 2). -/
def FaultAfter (pc : Nat) (reads : List Nat) (e e' : Element) : Prop :=
  e'.fault = e.fault.or ((reads.find? (fun h => !(e.entry h).written)).map (fun h => ⟨h, pc⟩))

/-- The effect of an operation on one element: what it reads in order, what it writes, and nothing else. -/
def Effect (reads : List Nat) (writes : Element → List (Nat × Half)) (pc : Nat) (e e' : Element) :
    Prop :=
  Becomes (writes e) e e' ∧ e'.trace = e.trace ∧ FaultAfter pc reads e e'

/-- Everything of the machine but the elements and pc stays: STATUS, ERR, the stream, the grid's size, and
the model's own fields. -/
def SequencerKept (s t : State) : Prop :=
  t.status = s.status ∧ t.err = s.err ∧ t.stream = s.stream ∧ t.rows = s.rows ∧ t.cols = s.cols ∧
    t.mustConstruct = s.mustConstruct ∧ t.draws = s.draws ∧ t.pending = s.pending ∧ t.replies = s.replies

/-- `exec i s` answers a next state in which pc has gone on by one, each element is as `P pc` says of it,
and the rest of the machine stays. -/
def CompletesWith (i : Instr) (P : Nat → Element → Element → Prop) (s : State) : Prop :=
  ∃ t, exec i s = .next t ∧ t.pc = s.pc + 1 ∧ SequencerKept s t ∧
    List.Forall₂ (P s.pc) s.elems t.elems

/-- The operations of a list executed one after another. -/
def execAll : List Instr → State → Host.Outcome State Fault Refusal
  | [], s => .next s
  | i :: is, s =>
    match exec i s with
    | .next t => execAll is t
    | .fault f => .fault f
    | .refused r => .refused r

/-- The three arrays of two elements are equal. -/
def SameArrays (e e' : Element) : Prop := e'.w = e.w ∧ e'.ctr = e.ctr ∧ e'.ks = e.ks

/-- One operation and a stream both complete from `s`, with equal arrays in every element; pc goes on by
one and by the stream's length, and the rest of the machine stays in both. -/
def SameEffectOnArrays (i : Instr) (is : List Instr) (s : State) : Prop :=
  ∃ t u, exec i s = .next t ∧ execAll is s = .next u ∧ List.Forall₂ SameArrays t.elems u.elems ∧
    t.pc = s.pc + 1 ∧ u.pc = s.pc + is.length ∧ SequencerKept s t ∧ SequencerKept s u

/-- ROT[0..15], as R6 lists it. -/
def specRot : List Nat := [10, 26, 11, 21, 13, 27, 23, 5, 6, 20, 17, 11, 25, 10, 18, 20]

/-- What Mix(x, y, t) writes, in terms of the values before (R100). -/
def mixWrites (x y t : Nat) (e : Element) : List (Nat × Half) :=
  wordAt (2 * x) (add32 (e.wd x) (e.wd y)) ++
    wordAt (2 * y) (xor32 (rotl32 (e.wd y) t) (add32 (e.wd x) (e.wd y)))

/-- The parity word of the key words (R112). -/
def parityOf (e : Element) : Word32 :=
  xor32 (xor32 (xor32 (xor32 ⟨0x1BD1, 0x1BDA⟩ (e.kd 0)) (e.kd 1)) (e.kd 2)) (e.kd 3)

/-- Four 32-bit words. -/
structure Words4 where
  x0 : BitVec 32
  x1 : BitVec 32
  x2 : BitVec 32
  x3 : BitVec 32

/-- Scratch word i mod 5 in native words: the four key words and the parity word (R112, R116). -/
def nativeKey (k : Words4) (i : Nat) : BitVec 32 :=
  match i % 5 with
  | 0 => k.x0
  | 1 => k.x1
  | 2 => k.x2
  | 3 => k.x3
  | _ => 0x1BD11BDA ^^^ k.x0 ^^^ k.x1 ^^^ k.x2 ^^^ k.x3

/-- InjectKey(q) in native 32-bit arithmetic (R114). -/
def nativeInject (k : Words4) (q : Nat) (x : Words4) : Words4 :=
  ⟨x.x0 + nativeKey k q, x.x1 + nativeKey k (q + 1), x.x2 + nativeKey k (q + 2),
    x.x3 + nativeKey k (q + 3) + BitVec.ofNat 32 q⟩

/-- Round n in native 32-bit arithmetic (R102). -/
def nativeRound (x : Words4) (n : Nat) : Words4 :=
  let t0 := specRot.getD (2 * n % 16) 0
  let t1 := specRot.getD ((2 * n + 1) % 16) 0
  if n % 2 = 0 then
    ⟨x.x0 + x.x1, x.x1.rotateLeft t0 ^^^ (x.x0 + x.x1),
      x.x2 + x.x3, x.x3.rotateLeft t1 ^^^ (x.x2 + x.x3)⟩
  else
    ⟨x.x0 + x.x3, x.x1.rotateLeft t1 ^^^ (x.x2 + x.x1),
      x.x2 + x.x1, x.x3.rotateLeft t0 ^^^ (x.x0 + x.x3)⟩

/-- The generator in native 32-bit arithmetic: counter plus key, 20 rounds, an injection before rounds 4,
8, 12, 16 and one after round 19 (R121, R123). -/
def nativeGenerator (c k : Words4) : Words4 :=
  nativeInject k 5 ((List.range 20).foldl
    (fun x n => nativeRound (if n % 4 = 0 ∧ 0 < n then nativeInject k (n / 4) x else x) n)
    ⟨c.x0 + k.x0, c.x1 + k.x1, c.x2 + k.x2, c.x3 + k.x3⟩)

/-- The counter words of an element, in the 32-bit view. -/
def counterWords (e : Element) : Words4 :=
  ⟨(e.cd 0).val, (e.cd 1).val, (e.cd 2).val, (e.cd 3).val⟩

/-- The key words of an element, in the 32-bit view. -/
def keyWords (e : Element) : Words4 :=
  ⟨(e.kd 0).val, (e.kd 1).val, (e.kd 2).val, (e.kd 3).val⟩

/-- The 26 operations that R124 writes GEN out as. -/
def genStream : List Instr :=
  [.init, .round 0, .round 1, .round 2, .round 3, .inject 1,
    .round 4, .round 5, .round 6, .round 7, .inject 2,
    .round 8, .round 9, .round 10, .round 11, .inject 3,
    .round 12, .round 13, .round 14, .round 15, .inject 4,
    .round 16, .round 17, .round 18, .round 19, .inject 5]

/-- The expansion of MIX into ADD32, ROTL32, XOR32 (R101). -/
def expandMix (x y : Fin 4) (t : Nat) : List Instr := [.add32 x x y, .rotl32 y y t, .xor32 y y x]

/-- The expansion of an operation of `genStream` into primitive operations (R101, R103, R115, R122). -/
def expand : Instr → List Instr
  | .init => [.keysched, .add32 0 4 8, .add32 1 5 9, .add32 2 6 10, .add32 3 7 11]
  | .round n =>
    let t0 := specRot.getD (2 * n % 16) 0
    let t1 := specRot.getD ((2 * n + 1) % 16) 0
    if n % 2 = 0 then expandMix 0 1 t0 ++ expandMix 2 3 t1
    else expandMix 0 3 t0 ++ expandMix 2 1 t1
  | .inject q =>
    [.add32 0 0 (8 + q % 5), .add32 1 1 (8 + (q + 1) % 5), .add32 2 2 (8 + (q + 2) % 5),
      .add32 3 3 (8 + (q + 3) % 5), .addi32 3 3 q]
  | i => [i]

/-- The operation is a DUMP. -/
def isDump : Instr → Bool
  | .dump _ => true
  | _ => false

/-- The working words an operation's rule names as written: of ADD32, ADDI32, XOR32, ROTL32 the destination,
of MIX its two words, of INJECT, ROUND, INIT, GEN all four (R23, R88 to R92, R100, R102, R114, R121, R123). -/
def workingWordsWritten : Instr → List Nat
  | .add32 d _ _ => [d]
  | .addi32 d _ _ => [d]
  | .xor32 d _ _ => [d]
  | .rotl32 d _ _ => [d]
  | .mix ma mb _ => [ma, mb]
  | .inject _ => [0, 1, 2, 3]
  | .round _ => [0, 1, 2, 3]
  | .keyid => []
  | .keysched => []
  | .init => [0, 1, 2, 3]
  | .gen => [0, 1, 2, 3]
  | .dump _ => []

/-- The entries from index `base` on are those of a supplied image, written; without one, not written. -/
def EntriesOfImage (image : Option (List Half)) (base : Nat) (e : Element) : Prop :=
  (image = none → ∀ j < 8, (e.entry (base + j)).written = false) ∧
  (∀ vs, image = some vs → ∀ (j : Nat) (v : Half), vs[j]? = some v → e.entry (base + j) = ⟨v, true⟩)

/-- No operation executes until a new Construct: STATUS is REJECTED, or was when the last Reset was served
and no Construct has succeeded since (R26, R152; log 26). -/
def AwaitsConstruct (s : State) : Prop := s.status = .rejected ∨ s.mustConstruct = true

/-- A word is reserved, by the clauses (a) to (f) of R71, its fields read off by R62. -/
def Reserved (w : OpWord) : Prop :=
  let op := w.toNat / 4096
  let a := w.toNat / 64 % 16
  let b := w.toNat / 4 % 16
  let k := w.toNat % 32
  -- (a)
  op ∈ [0x0, 0xA, 0xB, 0xC, 0xD, 0xE, 0xF] ∨
  -- (b)
  (op ∈ [1, 2, 3] ∧ w.toNat % 4 ≠ 0) ∨ (op = 4 ∧ w.toNat / 32 % 2 ≠ 0) ∨
  (op = 5 ∧ w.toNat / 32 % 8 ≠ 0) ∨ (op ∈ [6, 7, 9] ∧ w.toNat / 32 % 128 ≠ 0) ∨
  (op = 8 ∧ w.toNat / 16 % 256 ≠ 0) ∨
  -- (c)
  (op ∈ [1, 2, 3, 4] ∧ a ∈ [13, 14, 15]) ∨ (op ∈ [1, 3] ∧ b ∈ [13, 14, 15]) ∨
  -- (d)
  (op = 5 ∧ w.toNat / 1024 % 4 = w.toNat / 256 % 4) ∨
  -- (e)
  (op = 6 ∧ 5 < k) ∨ (op = 7 ∧ 19 < k) ∨ (op = 9 ∧ 25 < k) ∨
  -- (f)
  (op = 8 ∧ 3 < w.toNat % 16)

end Sys2Proof.Claims

open Sys2Proof Sys2Proof.Machine Sys2Proof.Claims

/-! ### Encoding -/

/-- Decoding the word of any legal operation gives the operation back, every operand at every value. -/
def Obligations.DecodeOfEncode : Prop :=
  ∀ i : Instr, i.WellFormed → decode (encode i) = .ok i

/-- A word the decoder accepts is a legal operation's, and its encoding is that very word. -/
def Obligations.EncodeOfDecode : Prop :=
  ∀ (w : OpWord) (i : Instr), decode w = .ok i → i.WellFormed ∧ encode i = w

/-- R71: the decoder refuses a word exactly when one of the clauses (a) to (f) holds of it, 0x0000 and
0xFFFF among them; a stream that holds such a word is rejected whole by Load, with CE_ILLEGAL_OP and the
index of the first one, and nothing else changes. -/
def Obligations.ReservedWordsAreIllegal : Prop :=
  (∀ w : OpWord, (∃ e, decode w = .error e) ↔ Reserved w) ∧
  Reserved 0x0000#16 ∧ Reserved 0xFFFF#16 ∧
  ∀ (s : State) (ws : List OpWord), s.status = .idle ∨ s.status = .done → (∃ w ∈ ws, Reserved w) →
    ∃ (k : Nat) (w : OpWord), ws[k]? = some w ∧ Reserved w ∧ (∀ j < k, ∀ v, ws[j]? = some v → ¬ Reserved v) ∧
      s.hostAct (.load ws) = some (.ack, { s with status := .rejected, err := ⟨.illegalOp, k⟩ })

/-- The fifteen worked encodings of R70, and the words its table gives KEYID, KEYSCHED, INIT and GEN, decode to
the operations they stand for. -/
def Obligations.WorkedEncodingsDecode : Prop :=
  decode 0x1120#16 = .ok (.add32 0 4 8) ∧ decode 0x1CCC#16 = .ok (.add32 3 3 3) ∧
  decode 0x2CD4#16 = .ok (.addi32 3 3 5) ∧ decode 0x3440#16 = .ok (.xor32 1 1 0) ∧
  decode 0x444A#16 = .ok (.rotl32 1 1 10) ∧ decode 0x49DF#16 = .ok (.rotl32 2 7 31) ∧
  decode 0x510A#16 = .ok (.mix 0 1 10) ∧ decode 0x5B1A#16 = .ok (.mix 2 3 26) ∧
  decode 0x530B#16 = .ok (.mix 0 3 11) ∧ decode 0x5915#16 = .ok (.mix 2 1 21) ∧ decode 0x6005#16 = .ok (.inject 5) ∧
  decode 0x7013#16 = .ok (.round 19) ∧ decode 0x8000#16 = .ok .keyid ∧
  decode 0x8001#16 = .ok .keysched ∧ decode 0x8002#16 = .ok .init ∧ decode 0x8003#16 = .ok .gen ∧
  decode 0x9000#16 = .ok (.dump 0) ∧ decode 0x900F#16 = .ok (.dump 15) ∧
  decode 0x9019#16 = .ok (.dump 25)

/-- R74: the line that writes a legal operation assembles to that operation. -/
def Obligations.AssemblerReadsItsOwnLines : Prop :=
  ∀ i : Instr, i.WellFormed → assembleLine (lineOf i).1 (lineOf i).2 = some [i]

/-! ### The half-word layer -/

/-- R87: Add32 adds the low halves, then the high halves with the carry of the low ones, drops the top
carry, and so is addition modulo 2^32. -/
def Obligations.Add32IsAdditionMod32 : Prop :=
  ∀ x y : Word32,
    (add32 x y).lo.toNat = (x.lo.toNat + y.lo.toNat) % 2 ^ 16 ∧
    (add32 x y).hi.toNat =
      (x.hi.toNat + y.hi.toNat + (if 2 ^ 16 ≤ x.lo.toNat + y.lo.toNat then 1 else 0)) % 2 ^ 16 ∧
    (add32 x y).val.toNat = (x.val.toNat + y.val.toNat) % 2 ^ 32

/-- R90: Rotl32 by its three cases, and the left rotation of the 32-bit view: bit i goes to bit
(i + n) mod 32. -/
def Obligations.Rotl32IsLeftRotation : Prop :=
  ∀ (x : Word32) (n : Nat), n ≤ 31 →
    (n = 0 → rotl32 x n = x) ∧
    (16 ≤ n → rotl32 x n = rotl32 ⟨x.lo, x.hi⟩ (n - 16)) ∧
    (1 ≤ n → n ≤ 15 →
      rotl32 x n =
        ⟨(x.hi <<< n) ||| ((x.lo >>> (16 - n)) &&& BitVec.ofNat 16 (2 ^ n - 1)),
          (x.lo <<< n) ||| ((x.hi >>> (16 - n)) &&& BitVec.ofNat 16 (2 ^ n - 1))⟩) ∧
    (∀ i < 32, (rotl32 x n).val.getLsbD ((i + n) % 32) = x.val.getLsbD i)

/-- R94: the rotation laws. -/
def Obligations.RotationLaws : Prop :=
  (∀ x, rotl32 x 0 = x) ∧
  (∀ x a, 1 ≤ a → a ≤ 31 → rotl32 (rotl32 x a) (32 - a) = x) ∧
  (∀ x a b, a ≤ 31 → b ≤ 31 → rotl32 (rotl32 x a) b = rotl32 x ((a + b) % 32)) ∧
  (∀ n, n ≤ 31 → Function.Bijective (fun x => rotl32 x n)) ∧
  (∀ x n, n ≤ 31 →
    (Finset.univ.filter (fun i : Fin 32 => (rotl32 x n).val.getLsbD i = true)).card =
      (Finset.univ.filter (fun i : Fin 32 => x.val.getLsbD i = true)).card) ∧
  (∀ x y n, n ≤ 31 → rotl32 (xor32 x y) n = xor32 (rotl32 x n) (rotl32 y n))

/-- The laws of R93 for Add32: commutative, associative, (0, 0) its identity, one inverse for every x. -/
def Obligations.AdditionLaws : Prop :=
  (∀ x y, add32 x y = add32 y x) ∧
  (∀ x y z, add32 (add32 x y) z = add32 x (add32 y z)) ∧
  (∀ x, add32 x Word32.zero = x) ∧
  (∀ x, ∃! y, add32 x y = Word32.zero)

/-! ### The operations: result, completion and frame -/

/-- R88: ADD32 writes Add32(S[a], S[b]) to Wd[d] and advances pc, on every element and for all slots, the
destination among the sources or not; nothing else changes. FAULT is as R35's read order says; that the
operation completes then too, on the free value of the entry, is log 1 and 2. -/
def Obligations.Add32Effect : Prop :=
  ∀ (s : State) (d : Fin 4) (a b : Nat), a ≤ 12 → b ≤ 12 →
    CompletesWith (.add32 d a b)
      (Effect [2 * a, 2 * a + 1, 2 * b, 2 * b + 1]
        (fun e => wordAt (2 * d) (add32 (e.slot a) (e.slot b)))) s

/-- R89: ADDI32 writes Add32(S[a], (0, imm4)) to Wd[d]; nothing else changes. -/
def Obligations.Addi32Effect : Prop :=
  ∀ (s : State) (d : Fin 4) (a imm : Nat), a ≤ 12 → imm ≤ 15 →
    CompletesWith (.addi32 d a imm)
      (Effect [2 * a, 2 * a + 1]
        (fun e => wordAt (2 * d) (add32 (e.slot a) ⟨0, BitVec.ofNat 16 imm⟩))) s

/-- R92: XOR32 writes Xor32(S[a], S[b]) to Wd[d]; nothing else changes. -/
def Obligations.Xor32Effect : Prop :=
  ∀ (s : State) (d : Fin 4) (a b : Nat), a ≤ 12 → b ≤ 12 →
    CompletesWith (.xor32 d a b)
      (Effect [2 * a, 2 * a + 1, 2 * b, 2 * b + 1]
        (fun e => wordAt (2 * d)
          ⟨(e.slot a).hi ^^^ (e.slot b).hi, (e.slot a).lo ^^^ (e.slot b).lo⟩)) s

/-- R91: ROTL32 writes Rotl32(S[a], amt) to Wd[d]; nothing else changes. An amount of 32 or more is refused
with CE_ROT_AMOUNT and never executed. -/
def Obligations.Rotl32Effect : Prop :=
  (∀ (s : State) (d : Fin 4) (a amt : Nat), a ≤ 12 → amt ≤ 31 →
    CompletesWith (.rotl32 d a amt)
      (Effect [2 * a, 2 * a + 1] (fun e => wordAt (2 * d) (rotl32 (e.slot a) amt))) s) ∧
  (∀ (s : State) (d : Fin 4) (a amt : Nat), a ≤ 12 → 32 ≤ amt →
    (Instr.rotl32 d a amt).check = some .rotAmount ∧
    exec (.rotl32 d a amt) s = .fault (.illegalTerm .rotAmount))

/-- R100: MIX leaves Add32(A, B) in Wd[ma] and Xor32(Rotl32(B, amt), Add32(A, B)) in Wd[mb]; nothing else
changes. Equal indices are reserved, and an amount of 32 or more is refused. -/
def Obligations.MixEffect : Prop :=
  (∀ (s : State) (ma mb : Fin 4) (amt : Nat), ma ≠ mb → amt ≤ 31 →
    CompletesWith (.mix ma mb amt)
      (Effect [2 * ma, 2 * ma + 1, 2 * mb, 2 * mb + 1] (mixWrites ma mb amt)) s) ∧
  (∀ (s : State) (m : Fin 4) (amt : Nat),
    exec (.mix m m amt) s = .fault (.illegalTerm .illegalOp)) ∧
  (∀ (s : State) (ma mb : Fin 4) (amt : Nat), ma ≠ mb → 32 ≤ amt →
    exec (.mix ma mb amt) s = .fault (.illegalTerm .rotAmount))

/-- R102: ROUND n does the two Mix calls of its parity with the amounts ROT[2n mod 16], ROT[(2n+1) mod 16];
nothing else changes. -/
def Obligations.RoundEffect : Prop :=
  (∀ (s : State) (n : Nat), n ≤ 19 → n % 2 = 0 →
    CompletesWith (.round n)
      (Effect [0, 1, 2, 3, 4, 5, 6, 7]
        (fun e => mixWrites 0 1 (specRot.getD (2 * n % 16) 0) e ++
          mixWrites 2 3 (specRot.getD ((2 * n + 1) % 16) 0) e)) s) ∧
  (∀ (s : State) (n : Nat), n ≤ 19 → n % 2 = 1 →
    CompletesWith (.round n)
      (Effect [0, 1, 6, 7, 4, 5, 2, 3]
        (fun e => mixWrites 0 3 (specRot.getD (2 * n % 16) 0) e ++
          mixWrites 2 1 (specRot.getD ((2 * n + 1) % 16) 0) e)) s) ∧
  (∀ (s : State) (n : Nat), 19 < n → exec (.round n) s = .fault (.illegalTerm .illegalOp))

/-- R110: KEYID writes zeros to KS[0..5], ROW + 1 to KS[6], COL + 1 to KS[7]; nothing else changes, the
parity word and FAULT among it. In an element that Construct has not given ROW and COL since reset, where
they have no value (R170), a free value stands for each (log 5). -/
def Obligations.KeyidEffect : Prop :=
  ∀ s : State,
    CompletesWith .keyid
      (Effect []
        (fun e => [(16, 0), (17, 0), (18, 0), (19, 0), (20, 0), (21, 0),
          (22, (if e.identified then e.row else Config.unassignedRow e.seed) + 1),
          (23, (if e.identified then e.col else Config.unassignedCol e.seed) + 1)])) s

/-- R112: KEYSCHED writes PARITY32 XOR Kd[0] XOR Kd[1] XOR Kd[2] XOR Kd[3] to Kd[4]; nothing else changes. -/
def Obligations.KeyschedEffect : Prop :=
  ∀ s : State,
    CompletesWith .keysched
      (Effect [16, 17, 18, 19, 20, 21, 22, 23] (fun e => wordAt 24 (parityOf e))) s

/-- R114: INJECT q adds Kd[(q + i) mod 5] to each Wd[i] and then the scalar q to Wd[3]; nothing else
changes. -/
def Obligations.InjectEffect : Prop :=
  (∀ (s : State) (q : Nat), q ≤ 5 →
    CompletesWith (.inject q)
      (Effect
        [0, 1, 16 + 2 * (q % 5), 17 + 2 * (q % 5), 2, 3, 16 + 2 * ((q + 1) % 5), 17 + 2 * ((q + 1) % 5),
          4, 5, 16 + 2 * ((q + 2) % 5), 17 + 2 * ((q + 2) % 5),
          6, 7, 16 + 2 * ((q + 3) % 5), 17 + 2 * ((q + 3) % 5)]
        (fun e =>
          wordAt 0 (add32 (e.wd 0) (e.kd (q % 5))) ++
          wordAt 2 (add32 (e.wd 1) (e.kd ((q + 1) % 5))) ++
          wordAt 4 (add32 (e.wd 2) (e.kd ((q + 2) % 5))) ++
          wordAt 6 (add32 (add32 (e.wd 3) (e.kd ((q + 3) % 5))) ⟨0, BitVec.ofNat 16 q⟩))) s) ∧
  (∀ (s : State) (q : Nat), 5 < q → q < 2 ^ 16 →
    exec (.inject q) s = .fault (.illegalTerm .illegalOp))

/-- R121: INIT makes the parity word and writes Add32(Cd[i], Kd[i]) to each Wd[i]; nothing else changes. -/
def Obligations.InitEffect : Prop :=
  ∀ s : State,
    CompletesWith .init
      (Effect [16, 17, 18, 19, 20, 21, 22, 23, 8, 9, 10, 11, 12, 13, 14, 15]
        (fun e =>
          wordAt 24 (parityOf e) ++
          wordAt 0 (add32 (e.cd 0) (e.kd 0)) ++ wordAt 2 (add32 (e.cd 1) (e.kd 1)) ++
          wordAt 4 (add32 (e.cd 2) (e.kd 2)) ++ wordAt 6 (add32 (e.cd 3) (e.kd 3)))) s

/-- R130: DUMP h appends (h, H[h]) to TRACE; no entry changes, and nothing else does. -/
def Obligations.DumpEffect : Prop :=
  ∀ (s : State) (h : Nat), h ≤ 25 →
    CompletesWith (.dump h)
      (fun pc e e' => Becomes [] e e' ∧ e'.trace = e.trace ++ [(h, e.half h)] ∧
        FaultAfter pc [h] e e') s

/-- R123 with R95: GEN leaves in Wd[0..3] what Threefry4x32 with 20 rounds gives in native 32-bit
arithmetic for the counter and the key, and the parity word in Kd[4]; pc goes on by one, CTR, KS[0..7],
TRACE and the identity stay, and the old contents of W and Kd[4] do not matter. -/
def Obligations.GenIsNativeThreefry : Prop :=
  ∀ s : State,
    CompletesWith .gen
      (fun pc e e' =>
        (e'.wd 0).val = (nativeGenerator (counterWords e) (keyWords e)).x0 ∧
        (e'.wd 1).val = (nativeGenerator (counterWords e) (keyWords e)).x1 ∧
        (e'.wd 2).val = (nativeGenerator (counterWords e) (keyWords e)).x2 ∧
        (e'.wd 3).val = (nativeGenerator (counterWords e) (keyWords e)).x3 ∧
        e'.kd 4 = parityOf e ∧
        (∀ h, h < 8 ∨ h = 24 ∨ h = 25 → (e'.entry h).written = true) ∧
        (∀ h, ¬ (h < 8 ∨ h = 24 ∨ h = 25) → e'.entry h = e.entry h) ∧
        e'.row = e.row ∧ e'.col = e.col ∧ e'.identified = e.identified ∧ e'.seed = e.seed ∧
        e'.trace = e.trace ∧
        FaultAfter pc [16, 17, 18, 19, 20, 21, 22, 23, 8, 9, 10, 11, 12, 13, 14, 15] e e') s

/-- The example of R123, the source's known-answer input: with Cd = [0, 0, 0, 1] and Kd[0..3] =
[0, 0, 0, 0x00010001], GEN leaves Wd = [0x39C8D6F9, 0xB48F659A, 0xFEDF25BD, 0xE347D3B7]. -/
def Obligations.GenKnownAnswer : Prop :=
  ∀ (s : State) (k : Nat) (e : Element), s.elems[k]? = some e →
    e.cd 0 = ⟨0, 0⟩ → e.cd 1 = ⟨0, 0⟩ → e.cd 2 = ⟨0, 0⟩ → e.cd 3 = ⟨0, 1⟩ →
    e.kd 0 = ⟨0, 0⟩ → e.kd 1 = ⟨0, 0⟩ → e.kd 2 = ⟨0, 0⟩ → e.kd 3 = ⟨1, 1⟩ →
    ∃ t e', exec .gen s = .next t ∧ t.elems[k]? = some e' ∧
      e'.wd 0 = ⟨0x39C8, 0xD6F9⟩ ∧ e'.wd 1 = ⟨0xB48F, 0x659A⟩ ∧
      e'.wd 2 = ⟨0xFEDF, 0x25BD⟩ ∧ e'.wd 3 = ⟨0xE347, 0xD3B7⟩

/-- R75: MOV32 and DUMP32 stand for the operations R75 gives, and MOV32 copies a slot to a working word,
both halves unchanged, and does nothing else. -/
def Obligations.PseudoInstructions : Prop :=
  (∀ (d : Fin 4) (a : SlotName),
    assembleLine .MOV32 [.slot (.w d), .slot a] = some [.addi32 d (slotNumber a) 0]) ∧
  (∀ a : SlotName,
    assembleLine .DUMP32 [.slot a] = some [.dump (2 * slotNumber a), .dump (2 * slotNumber a + 1)]) ∧
  (∀ (s : State) (d : Fin 4) (a : Nat), a ≤ 12 →
    CompletesWith (.addi32 d a 0)
      (Effect [2 * a, 2 * a + 1] (fun e => wordAt (2 * d) (e.slot a))) s)

/-- A term that the construction checks refuse is never executed, whatever it is (R65, R71, R117). -/
def Obligations.RefusedTermsNeverExecute : Prop :=
  ∀ (i : Instr) (e : TermError) (s : State), i.check = some e → exec i s = .fault (.illegalTerm e)

/-! ### Equivalences the spec derives -/

/-- R101: MIX does to the arrays what ADD32, ROTL32, XOR32 do, in one step for their three. -/
def Obligations.MixIsAddRotateXor : Prop :=
  ∀ (s : State) (ma mb : Fin 4) (amt : Nat), ma ≠ mb → amt ≤ 31 →
    SameEffectOnArrays (.mix ma mb amt) [.add32 ma ma mb, .rotl32 mb mb amt, .xor32 mb mb ma] s

/-- R103: ROUND n does to the arrays what its two MIX operations do. -/
def Obligations.RoundIsTwoMixes : Prop :=
  ∀ (s : State) (n : Nat), n ≤ 19 →
    (n % 2 = 0 → SameEffectOnArrays (.round n)
      [.mix 0 1 (specRot.getD (2 * n % 16) 0), .mix 2 3 (specRot.getD ((2 * n + 1) % 16) 0)] s) ∧
    (n % 2 = 1 → SameEffectOnArrays (.round n)
      [.mix 0 3 (specRot.getD (2 * n % 16) 0), .mix 2 1 (specRot.getD ((2 * n + 1) % 16) 0)] s)

/-- R115: INJECT q does to the arrays what four ADD32 and one ADDI32 do. -/
def Obligations.InjectIsFiveAdditions : Prop :=
  ∀ (s : State) (q : Nat), q ≤ 5 →
    SameEffectOnArrays (.inject q)
      [.add32 0 0 (8 + q % 5), .add32 1 1 (8 + (q + 1) % 5), .add32 2 2 (8 + (q + 2) % 5),
        .add32 3 3 (8 + (q + 3) % 5), .addi32 3 3 q] s

/-- R122: INIT does to the arrays what KEYSCHED and four ADD32 do, and what KEYSCHED, four MOV32 and
INJECT 0 do. -/
def Obligations.InitExpansions : Prop :=
  ∀ s : State,
    SameEffectOnArrays .init
      [.keysched, .add32 0 4 8, .add32 1 5 9, .add32 2 6 10, .add32 3 7 11] s ∧
    SameEffectOnArrays .init
      [.keysched, .addi32 0 4 0, .addi32 1 5 0, .addi32 2 6 0, .addi32 3 7 0, .inject 0] s

/-- R124: GEN leaves every element, FAULT and TRACE among it, exactly as the stream of 26 operations does,
whose words are the listed ones; written out in primitive operations the stream has 150 of them, with the
same effect on the arrays. -/
def Obligations.GenIsItsStream : Prop :=
  (∀ s : State, ∃ t u, exec .gen s = .next t ∧ execAll genStream s = .next u ∧ t.elems = u.elems ∧
    t.pc = s.pc + 1 ∧ u.pc = s.pc + 26 ∧ SequencerKept s t ∧ SequencerKept s u) ∧
  genStream.map encode =
    [0x8002, 0x7000, 0x7001, 0x7002, 0x7003, 0x6001, 0x7004, 0x7005, 0x7006, 0x7007, 0x6002, 0x7008,
      0x7009, 0x700A, 0x700B, 0x6003, 0x700C, 0x700D, 0x700E, 0x700F, 0x6004, 0x7010, 0x7011, 0x7012,
      0x7013, 0x6005] ∧
  (genStream.flatMap expand).length = 150 ∧
  (∀ s : State, SameEffectOnArrays .gen (genStream.flatMap expand) s)

/-- The corner case of R102 and the period of R104: ROUND n and ROUND n + 8 are the same function. -/
def Obligations.RoundsRepeatWithPeriodEight : Prop :=
  ∀ (s : State) (n : Nat), n ≤ 11 → exec (.round (n + 8)) s = exec (.round n) s

/-- R106: from the words after MIX the words before are recovered, and they are the only ones. -/
def Obligations.MixIsInvertible : Prop :=
  ∀ (s : State) (ma mb : Fin 4) (amt : Nat), ma ≠ mb → amt ≤ 31 →
    CompletesWith (.mix ma mb amt)
      (fun _ e e' =>
        e.wd mb = rotl32 (xor32 (e'.wd mb) (e'.wd ma)) ((32 - amt) % 32) ∧
        add32 (e.wd ma) (e.wd mb) = e'.wd ma ∧
        ∀ A, add32 A (e.wd mb) = e'.wd ma → A = e.wd ma) s

/-- R126: two elements whose sixteen entries CTR[0..7] and KS[0..7] read the same have the same output
after GEN, and the same parity word, whatever else differs between them or their machines. -/
def Obligations.GenIsAFunctionOfCounterAndKey : Prop :=
  ∀ (s₁ s₂ t₁ t₂ : State) (k₁ k₂ : Nat) (e₁ e₂ e₁' e₂' : Element),
    exec .gen s₁ = .next t₁ → exec .gen s₂ = .next t₂ →
    s₁.elems[k₁]? = some e₁ → s₂.elems[k₂]? = some e₂ →
    t₁.elems[k₁]? = some e₁' → t₂.elems[k₂]? = some e₂' →
    (∀ h, 8 ≤ h → h < 24 → e₁.half h = e₂.half h) →
    ∀ h, h < 8 ∨ h = 24 ∨ h = 25 → e₁'.entry h = e₂'.entry h

/-- R131: a stream of operations without its DUMPs leaves the arrays of every element as the whole stream
does. -/
def Obligations.DumpsDoNotFeedBack : Prop :=
  ∀ (is : List Instr) (s t : State), execAll is s = .next t →
    ∃ u, execAll (is.filter (fun i => !isDump i)) s = .next u ∧
      List.Forall₂ SameArrays t.elems u.elems

/-! ### Rules of the whole machine -/

/-- R23, R25, R127, R153: who writes what. No operation writes CTR, ROW, COL, STATUS, ERR or the stream;
KEYID alone writes the key words; KEYSCHED, INIT and GEN alone the parity word; KEYID, KEYSCHED and DUMP
leave W, and the others the working words their rule does not name; DUMP alone appends to TRACE; a FAULT that
is set stays, a new one is UNINIT of an unwritten entry at this pc, and KEYID sets none; and every operation
advances pc by exactly one. -/
def Obligations.WritersOfEachState : Prop :=
  ∀ (i : Instr) (s t : State), exec i s = .next t →
    t.pc = s.pc + 1 ∧ SequencerKept s t ∧
    List.Forall₂ (fun e e' =>
      e'.ctr = e.ctr ∧ e'.row = e.row ∧ e'.col = e.col ∧ e'.identified = e.identified ∧
      e'.seed = e.seed ∧
      (i ≠ .keyid → ∀ h, 16 ≤ h → h < 24 → e'.entry h = e.entry h) ∧
      (i ≠ .keysched → i ≠ .init → i ≠ .gen → ∀ h, 24 ≤ h → e'.entry h = e.entry h) ∧
      (i = .keyid ∨ i = .keysched ∨ isDump i = true → e'.w = e.w) ∧
      (∀ j < 4, j ∉ workingWordsWritten i → e'.entry (2 * j) = e.entry (2 * j) ∧
        e'.entry (2 * j + 1) = e.entry (2 * j + 1)) ∧
      (isDump i = false → e'.trace = e.trace) ∧
      (e'.fault = e.fault ∨ (e.fault = none ∧ i ≠ .keyid ∧
        ∃ h, e'.fault = some ⟨h, s.pc⟩ ∧ (e.entry h).written = false))) s.elems t.elems

/-- R51, R156, R157: what an operation does to an element depends on that element alone (and on pc, for
FAULT): the other elements, their number, and the rest of the machine do not matter. -/
def Obligations.ElementsAreIsolated : Prop :=
  ∀ (i : Instr) (s₁ s₂ t₁ t₂ : State) (k₁ k₂ : Nat), exec i s₁ = .next t₁ → exec i s₂ = .next t₂ →
    s₁.pc = s₂.pc → s₁.elems[k₁]? = s₂.elems[k₂]? → t₁.elems[k₁]? = t₂.elems[k₂]?

/-- R35, U1 (log 1, log 2): an element whose FAULT is none after an operation came out as it would have
with any other contents in its unwritten entries: no free value reached its arrays or its TRACE. Only
KEYID can take another free value, that of a ROW and COL not yet given (log 5), hence the premise. -/
def Obligations.FaultFreeResultsUseNoFreeValue : Prop :=
  ∀ (i : Instr) (s t u : State) (f : Element → Nat), exec i s = .next t →
    exec i { s with elems := s.elems.map (fun e => { e with seed := f e }) } = .next u →
    ∀ (k : Nat) (e e' u' : Element), s.elems[k]? = some e → t.elems[k]? = some e' →
      u.elems[k]? = some u' → (i = .keyid → e.identified = true) → e'.fault = none → u' = { e' with seed := f e }

/-- R110: in a machine whose grid Construct has made, KEYID gives every element a Kd[3] of its own, none of
them zero, and neither sum wraps. -/
def Obligations.KeyidGivesDistinctKeys : Prop :=
  ∀ s t : State, s.Inv → s.constructed = true → exec .keyid s = .next t →
    (t.elems.map (fun e => e.kd 3)).Nodup ∧
    ∀ e ∈ t.elems, e.kd 3 ≠ Word32.zero ∧ (e.kd 3).hi.toNat = e.row.toNat + 1 ∧
      (e.kd 3).lo.toNat = e.col.toNat + 1

/-- R55: a half-word read after a slot write gives the half written there, and a slot read after half-word
writes of both its entries gives the pair written, in W, in CTR (which has no slot write) and in KS. -/
def Obligations.MixedWidths : Prop :=
  (∀ (e : Element) (i : Nat) (x : Word32), i < 4 →
    (e.setWd i x).half (2 * i) = x.hi ∧ (e.setWd i x).half (2 * i + 1) = x.lo) ∧
  (∀ (e : Element) (i : Nat) (a b : Half), i < 4 →
    ((e.writeW (2 * i) a).writeW (2 * i + 1) b).slot i = ⟨a, b⟩) ∧
  (∀ (e : Element) (i : Nat) (a b : Half), i < 4 →
    ((e.writeCtr (2 * i) a).writeCtr (2 * i + 1) b).slot (4 + i) = ⟨a, b⟩) ∧
  (∀ (e : Element) (i : Nat) (x : Word32), i < 5 →
    (e.setKd i x).half (16 + 2 * i) = x.hi ∧ (e.setKd i x).half (16 + 2 * i + 1) = x.lo) ∧
  (∀ (e : Element) (i : Nat) (a b : Half), i < 5 →
    ((e.writeKs (2 * i) a).writeKs (2 * i + 1) b).slot (8 + i) = ⟨a, b⟩)

/-! ### Steps and runs -/

/-- R27: while a run is in progress and the word at pc decodes to i, a step is exec of i, after which the
run is over (STATUS DONE) if pc has reached LEN. A ReadStatus that is the host's next action is answered
before it (R163, log 7): that is all that answerStatus changes, and nothing where there is none. -/
def Obligations.StepRunsTheDecodedOperation : Prop :=
  ∀ (s : State) (w : OpWord) (i : Instr), s.status = .running →
    (s.stream.getD [])[s.pc]? = some w → decode w = .ok i →
    (∀ rest, s.pending = .readStatus :: rest →
      s.answerStatus = { s with pending := rest, replies := s.replies ++ [s.statusReply] }) ∧
    ((∀ rest, s.pending ≠ .readStatus :: rest) → s.answerStatus = s) ∧
    step s =
      match exec i s.answerStatus with
      | .next t =>
        .next (if t.status = .running ∧ (t.stream.getD []).length ≤ t.pc then { t with status := .done }
          else t)
      | .fault f => .fault f
      | .refused r => .refused r

/-- U2 (log 10): a step that meets a reserved word is stuck. -/
def Obligations.ReservedWordIsStuck : Prop :=
  ∀ (s : State) (w : OpWord), s.status = .running → (s.stream.getD [])[s.pc]? = some w →
    Reserved w → step s = .fault (.illegalWord s.pc)

/-- R27, R163 (log 7, log 8): while no run is in progress a step serves the host's next action, as hostAct
says, and keeps its reply; with an action that is not allowed next, or with none, there is no step. -/
def Obligations.StepAtRestServesTheHost : Prop :=
  ∀ s : State, s.status ≠ .running →
    (s.pending = [] → step s = .fault .noStep) ∧
    ∀ (a : HostAction) (rest : List HostAction), s.pending = a :: rest →
      (∀ (r : HostReply) (u : State), State.hostAct a { s with pending := rest } = some (r, u) →
        step s = .next { u with replies := u.replies ++ [r] }) ∧
      (State.hostAct a { s with pending := rest } = none → step s = .fault .hostActionNotAllowed)

/-- The invariant holds right after reset. -/
def Obligations.InvariantAtReset : Prop := State.reset.Inv

/-- Every step, of a run or of the host, keeps the invariant: the stream legal, pc within it, STATUS and
ERR in agreement, the grid one that Construct admits, identities inside it and distinct, and no run between a
rejection and the next Construct. -/
def Obligations.StepKeepsInvariant : Prop :=
  ∀ s t : State, s.Inv → step s = .next t → t.Inv

/-- R140: no operation raises an exception at run time: from every state that meets the invariant, with a
run in progress, the step completes. -/
def Obligations.RunsNeverFault : Prop :=
  ∀ s : State, s.Inv → s.status = .running → ∃ t, step s = .next t

/-- R160: a run with LEN - pc words to go is in progress for that many steps, pc going on by one at each,
and then ends with STATUS DONE and pc = LEN; the state is final when no element has a FAULT. -/
def Obligations.RunsEndAfterLenSteps : Prop :=
  ∀ s : State, s.Inv → s.status = .running →
    (∀ k < s.len - s.pc, ∃ t : State, Host.Core.run Sys2Proof.core k s = .next t ∧ t.status = .running ∧
      t.pc = s.pc + k) ∧
    ∃ t : State, Host.Core.run Sys2Proof.core (s.len - s.pc) s = .next t ∧ t.status = .done ∧
      t.pc = s.len ∧ (t.Final ↔ ∀ e ∈ t.elems, e.fault = none)

/-- R25, R29, R35: over every step but the host's Reset and Construct, an element keeps its identity, its
TRACE only grows at its end, and its FAULT once set stays. That Construct is left out for FAULT too is the
model's choice: its new elements have none (log 25). -/
def Obligations.IdentityTraceAndFaultPersist : Prop :=
  ∀ s t : State, step s = .next t →
    (s.status ≠ .running ∧ ∃ rest, s.pending = .reset :: rest) ∨
    (s.status ≠ .running ∧ s.constructed = false ∧ ∃ rows cols lengths elements rest,
      s.pending = .construct rows cols lengths elements :: rest) ∨
    List.Forall₂ (fun e e' => e'.row = e.row ∧ e'.col = e.col ∧ e'.identified = e.identified ∧
      e.trace <+: e'.trace ∧
      (e.fault ≠ none → e'.fault = e.fault)) s.elems t.elems

/-! ### The host -/

/-- R33, R170, R163: Reset, allowed when no run is in progress, leaves STATUS IDLE, ERR 0, pc 0, the stream
unloaded, and every element with 26 entries that hold no value, TRACE empty, no FAULT, and ROW and COL
without a value; the machine's reset state has the same values. That the grid keeps its elements and the
host its names for them is the model's choice, as is the 1 x 1 grid before the first Construct (log 5), and
that a Construct still due stays due over Reset is its reading of R26 and R152 (log 26). -/
def Obligations.ResetEffect : Prop :=
  (State.reset.status = .idle ∧ State.reset.err = ⟨.none, 0⟩ ∧ State.reset.pc = 0 ∧
    State.reset.stream = none ∧ State.reset.mustConstruct = false ∧ State.reset.elems ≠ [] ∧
    ∀ e ∈ State.reset.elems, (∀ h, (e.entry h).written = false) ∧ e.identified = false ∧
      e.trace = [] ∧ e.fault = none) ∧
  ∀ s : State,
    (s.status = .running → s.hostAct .reset = none) ∧
    (s.status ≠ .running → ∃ t, s.hostAct .reset = some (.ack, t) ∧ t.status = .idle ∧
      t.err = ⟨.none, 0⟩ ∧ t.pc = 0 ∧ t.stream = none ∧ t.rows = s.rows ∧ t.cols = s.cols ∧
      t.pending = s.pending ∧ t.replies = s.replies ∧ t.constructed = false ∧
      (t.mustConstruct = true ↔ AwaitsConstruct s) ∧
      List.Forall₂ (fun e e' => e'.row = e.row ∧ e'.col = e.col ∧ e'.identified = false ∧
        (∀ h, (e'.entry h).written = false) ∧ e'.trace = [] ∧ e'.fault = none) s.elems t.elems)

/-- R148: Construct rejects with CE_GRID a grid with no rows or columns or more than 65535 of them, an
identity outside the grid, or two elements with the same identity, whatever the array lengths are; and
nothing but ERR and STATUS changes. -/
def Obligations.ConstructRejectsBadGrids : Prop :=
  ∀ (s : State) (rows cols : Nat) (lengths : ArrayLengths) (elements : List ElementSpec),
    s.status = .idle ∨ s.status = .done → s.constructed = false →
    (rows = 0 ∨ cols = 0 ∨ 65535 < rows ∨ 65535 < cols ∨
      (∃ p ∈ elements, rows ≤ p.row ∨ cols ≤ p.col) ∨
      (∃ (i j : Nat) (p q : ElementSpec), i < j ∧ elements[i]? = some p ∧ elements[j]? = some q ∧
        p.row = q.row ∧ p.col = q.col)) →
    s.hostAct (.construct rows cols lengths elements) =
      some (.ack, { s with status := .rejected, err := ⟨.grid, 0⟩ })

/-- R143 and the order of R150: on a good grid, a wrong length is CE_ARRAY_LENGTH with the number of the
array, W before CTR before KS; an image of other than 8 entries counts with its array. -/
def Obligations.ConstructRejectsBadLengths : Prop :=
  ∀ (s : State) (rows cols : Nat) (lengths : ArrayLengths) (elements : List ElementSpec),
    s.status = .idle ∨ s.status = .done → s.constructed = false → gridOk rows cols elements = true →
    (lengths.w ≠ 8 → s.hostAct (.construct rows cols lengths elements) =
      some (.ack, { s with status := .rejected, err := ⟨.arrayLength, 0⟩ })) ∧
    (lengths.w = 8 → (lengths.ctr ≠ 8 ∨ ∃ p ∈ elements, ∃ v, p.ctrImage = some v ∧ v.length ≠ 8) →
      s.hostAct (.construct rows cols lengths elements) =
        some (.ack, { s with status := .rejected, err := ⟨.arrayLength, 1⟩ })) ∧
    (lengths.w = 8 → lengths.ctr = 8 → (∀ p ∈ elements, ∀ v, p.ctrImage = some v → v.length = 8) →
      (lengths.ks ≠ 10 ∨ ∃ p ∈ elements, ∃ v, p.keyImage = some v ∧ v.length ≠ 8) →
      s.hostAct (.construct rows cols lengths elements) =
        some (.ack, { s with status := .rejected, err := ⟨.arrayLength, 2⟩ }))

/-- R163, R143: a Construct that passes its checks gives each identity an element with TRACE empty (R29), its
counter image written to CTR[0..7] and its key image to KS[0..7] if the host supplies them (log 12), and every
other entry without a value; STATUS is IDLE. That FAULT is then none, also after a run before Construct that
had set it, is the model's choice (log 25), as is that a stream loaded before Construct, and pc, stay (log 27).
Construct is allowed "after Reset": not while RUNNING or REJECTED, and not on a constructed grid, as the grid
now is until the next Reset (log 13). -/
def Obligations.ConstructMakesTheGridOnce : Prop :=
  (∀ (s : State) (rows cols : Nat) (elements : List ElementSpec),
    s.status = .idle ∨ s.status = .done → s.constructed = false → gridOk rows cols elements = true →
    (∀ p ∈ elements, (∀ v, p.ctrImage = some v → v.length = 8) ∧ (∀ v, p.keyImage = some v → v.length = 8)) →
    ∃ t, s.hostAct (.construct rows cols ⟨8, 8, 10⟩ elements) = some (.ack, t) ∧ t.status = .idle ∧
      t.err = s.err ∧ t.rows = rows ∧ t.cols = cols ∧ t.constructed = true ∧ t.mustConstruct = false ∧
      t.stream = s.stream ∧ t.pc = s.pc ∧
      List.Forall₂ (fun p e => e.row.toNat = p.row ∧ e.col.toNat = p.col ∧ e.identified = true ∧
        EntriesOfImage p.ctrImage 8 e ∧ EntriesOfImage p.keyImage 16 e ∧
        (∀ h, h < 8 ∨ 24 ≤ h → (e.entry h).written = false) ∧ e.trace = [] ∧ e.fault = none)
        elements t.elems) ∧
  ∀ (s : State) (rows cols : Nat) (lengths : ArrayLengths) (elements : List ElementSpec),
    s.status = .running ∨ s.status = .rejected ∨ s.constructed = true →
      s.hostAct (.construct rows cols lengths elements) = none

/-- R145: Load takes a stream whose every word is legal, with pc = 0 and STATUS IDLE and the elements as
they were, and rejects any other with CE_ILLEGAL_OP and the index of its first illegal word, ERR and STATUS
alone changing. -/
def Obligations.LoadTakesOnlyLegalStreams : Prop :=
  ∀ (s : State) (ws : List OpWord), s.status = .idle ∨ s.status = .done →
    ((∀ w ∈ ws, ¬ Reserved w) →
      s.hostAct (.load ws) = some (.ack, { s with stream := some ws, pc := 0, status := .idle })) ∧
    (∀ (k : Nat) (w : OpWord), ws[k]? = some w → Reserved w →
      (∀ j < k, ∀ v, ws[j]? = some v → ¬ Reserved v) →
      s.hostAct (.load ws) = some (.ack, { s with status := .rejected, err := ⟨.illegalOp, k⟩ }))

/-- R144, R146 and the order of R150 for one word: in a stream of abstract terms whose first refused term
stands at index k, a rotation amount of 32 or more is CE_ROT_AMOUNT, an injection scalar of 2^16 or more, in
INJECT or as the immediate of ADDI32 (R117), is CE_SCALAR, and a reserved form is CE_ILLEGAL_OP even where its
amount is too large; the stream is rejected and never reduced. A stream of legal terms is loaded as their
words. The codes of abstract terms are log 11. -/
def Obligations.LoadRejectsBadTerms : Prop :=
  ∀ (s : State) (is : List Instr), s.status = .idle ∨ s.status = .done →
    ((∀ i ∈ is, i.WellFormed) →
      s.hostAct (.loadTerms is) =
        some (.ack, { s with stream := some (is.map encode), pc := 0, status := .idle })) ∧
    ∀ k : Nat, (∀ j < k, ∀ i, is[j]? = some i → i.WellFormed) →
      (∀ d a amt, is[k]? = some (.rotl32 d a amt) → a ≤ 12 → 32 ≤ amt →
        s.hostAct (.loadTerms is) =
          some (.ack, { s with status := .rejected, err := ⟨.rotAmount, k⟩ })) ∧
      (∀ ma mb amt, is[k]? = some (.mix ma mb amt) → ma ≠ mb → 32 ≤ amt →
        s.hostAct (.loadTerms is) =
          some (.ack, { s with status := .rejected, err := ⟨.rotAmount, k⟩ })) ∧
      (∀ m amt, is[k]? = some (.mix m m amt) →
        s.hostAct (.loadTerms is) =
          some (.ack, { s with status := .rejected, err := ⟨.illegalOp, k⟩ })) ∧
      (∀ q, is[k]? = some (.inject q) → 2 ^ 16 ≤ q →
        s.hostAct (.loadTerms is) =
          some (.ack, { s with status := .rejected, err := ⟨.scalar, k⟩ })) ∧
      (∀ d a imm, is[k]? = some (.addi32 d a imm) → a ≤ 12 → 2 ^ 16 ≤ imm →
        s.hostAct (.loadTerms is) =
          some (.ack, { s with status := .rejected, err := ⟨.scalar, k⟩ }))

/-- R151: the whole effect of a construction error is ERR and STATUS: a host action after which STATUS is
REJECTED where it was not has changed nothing else, and ERR then holds an error. -/
def Obligations.RejectionChangesErrAndStatusOnly : Prop :=
  ∀ (s t : State) (a : HostAction) (r : HostReply), s.hostAct a = some (r, t) →
    s.status ≠ .rejected → t.status = .rejected →
    t = { s with status := .rejected, err := t.err } ∧ t.err.code ≠ .none

/-- R163: Start, allowed on an IDLE or DONE machine with a stream loaded, sets pc to 0 and STATUS to
RUNNING; a stream of no words has then already ended (R160, log 9). Without a stream it is not allowed, nor on
a machine that was REJECTED and not constructed since (R26, R152; log 26). -/
def Obligations.StartBeginsARun : Prop :=
  ∀ (s : State) (ws : List OpWord),
    (s.status = .idle ∨ s.status = .done → s.mustConstruct = false → s.stream = some ws →
      s.hostAct .start =
        some (.ack, { s with pc := 0, status := if ws = [] then .done else .running })) ∧
    (s.stream = none ∨ s.mustConstruct = true → s.hostAct .start = none)

/-- R56: a HostWrite to CTR[0..7] or KS[0..7] of an element at rest is seen by the HostRead of that entry;
every other entry of it, and every other element, stays. -/
def Obligations.HostWriteThenRead : Prop :=
  ∀ (s : State) (row col : Half) (array : ArrayName) (j : Nat) (v : Half),
    s.status = .idle ∨ s.status = .done → array = .ctr ∨ array = .ks → j < 8 →
    (∃ e ∈ s.elems, e.row = row ∧ e.col = col) →
    ∃ t, s.hostAct (.hostWrite row col array j v) = some (.ack, t) ∧
      t.hostAct (.hostRead row col array j) = some (.entry (some v), t) ∧
      t.pc = s.pc ∧ SequencerKept s t ∧
      List.Forall₂ (fun e e' =>
        (e.row = row ∧ e.col = col →
          Becomes [((if array = .ctr then 8 else 16) + j, v)] e e' ∧ e'.trace = e.trace ∧
            e'.fault = e.fault) ∧
        (¬ (e.row = row ∧ e.col = col) → e' = e)) s.elems t.elems

/-- R56, R163: the host writes neither W nor the parity word KS[8..9], in any state. -/
def Obligations.HostNeverWritesWorkingOrParity : Prop :=
  ∀ (s : State) (row col : Half) (j : Nat) (v : Half),
    s.hostAct (.hostWrite row col .w j v) = none ∧
    (8 ≤ j → s.hostAct (.hostWrite row col .ks j v) = none ∧
      s.hostAct (.hostWrite row col .ctr j v) = none)

/-- R153, R163: on an element that runs the host can do nothing but read STATUS and ERR, which changes
nothing. -/
def Obligations.HostCannotActOnARun : Prop :=
  ∀ (s : State) (a : HostAction), s.status = .running →
    (a ≠ .readStatus → s.hostAct a = none) ∧
    s.hostAct .readStatus = some (.status 1 s.err.code.number s.err.info, s)

/-- R152: a REJECTED machine stays REJECTED, its ERR and its elements as they are, until the host's Reset, after
which a new Construct is due; Start on it has no step. From the rejection until a Construct that passes its
checks, through any Reset, no operation executes (R26, D14; log 26): every step leaves no run in progress, and
a Construct due, unless it serves such a Construct. -/
def Obligations.RejectedUntilConstructedAgain : Prop :=
  (∀ s : State, s.status = .rejected →
    (∀ t, step s = .next t →
      (t.status = .rejected ∧ t.err = s.err ∧ t.elems = s.elems ∧ t.pc = s.pc) ∨
      (∃ rest, s.pending = .reset :: rest ∧ t.status = .idle ∧ t.mustConstruct = true)) ∧
    (∀ rest, s.pending = .start :: rest → step s = .fault .hostActionNotAllowed)) ∧
  ∀ s t : State, s.status ≠ .running → AwaitsConstruct s → step s = .next t →
    t.status ≠ .running ∧
    (AwaitsConstruct t ∨
      (s.status ≠ .rejected ∧ ∃ rows cols lengths elements rest,
        s.pending = .construct rows cols lengths elements :: rest ∧
        constructError rows cols lengths elements = none ∧ t.constructed = true ∧ t.status = .idle))

/-- R163: HostRead, ReadTrace and ReadStatus return the entry (no value if nothing wrote it, U13), the
TRACE, and STATUS with ERR, of an element of a grid without two equal identities, and change nothing. -/
def Obligations.HostReads : Prop :=
  ∀ (s : State) (e : Element), s.status = .idle ∨ s.status = .done →
    (s.elems.map (fun e => (e.row, e.col))).Nodup → e ∈ s.elems →
    (∀ j < 8, s.hostAct (.hostRead e.row e.col .w j) =
      some (.entry (if (e.entry j).written then some (e.half j) else none), s)) ∧
    (∀ j < 8, s.hostAct (.hostRead e.row e.col .ctr j) =
      some (.entry (if (e.entry (8 + j)).written then some (e.half (8 + j)) else none), s)) ∧
    (∀ j < 10, s.hostAct (.hostRead e.row e.col .ks j) =
      some (.entry (if (e.entry (16 + j)).written then some (e.half (16 + j)) else none), s)) ∧
    s.hostAct (.readTrace e.row e.col) = some (.trace e.trace, s) ∧
    s.hostAct .readStatus = some (.status s.status.number s.err.code.number s.err.info, s)

/-- R26, R142, R163: ReadStatus returns STATUS and ERR by their numbers, IDLE 0, RUNNING 1, DONE 2,
REJECTED 3 and the codes 0 to 5, in every state; asked for while a run is in progress it is answered by the
run's next step, with RUNNING and ERR 0, and the run goes on (log 7). -/
def Obligations.StatusIsReadAtAnyTime : Prop :=
  [Status.idle, .running, .done, .rejected].map Status.number = [0, 1, 2, 3] ∧
  [ErrCode.none, .rotAmount, .arrayLength, .grid, .illegalOp, .scalar].map ErrCode.number =
    [0, 1, 2, 3, 4, 5] ∧
  (∀ s : State, s.hostAct .readStatus =
    some (.status s.status.number s.err.code.number s.err.info, s)) ∧
  ∀ (s : State) (rest : List HostAction), s.Inv → s.status = .running → s.pending = .readStatus :: rest →
    ∃ t, step s = .next t ∧ t.pending = rest ∧ t.replies = s.replies ++ [.status 1 0 0] ∧
      t.pc = s.pc + 1 ∧ t.err = s.err
end

