-- ==== Sys2Proof/Laws/State.lean ====
section
/-! SUPPORT. One lemma per field and update of the element and of the machine: what the field is after
the update, so that no later proof unfolds a record update. -/

namespace Sys2Proof.Machine

/-! ### One entry written -/


@[simp] theorem Element.writeW_w (e : Element) (j : Nat) (v : Half) :
    (e.writeW j v).w = e.w.setIfInBounds j ⟨v, true⟩ := rfl

@[simp] theorem Element.writeW_ctr (e : Element) (j : Nat) (v : Half) :
    (e.writeW j v).ctr = e.ctr := rfl

@[simp] theorem Element.writeW_ks (e : Element) (j : Nat) (v : Half) :
    (e.writeW j v).ks = e.ks := rfl

@[simp] theorem Element.writeW_row (e : Element) (j : Nat) (v : Half) :
    (e.writeW j v).row = e.row := rfl

@[simp] theorem Element.writeW_col (e : Element) (j : Nat) (v : Half) :
    (e.writeW j v).col = e.col := rfl

@[simp] theorem Element.writeW_identified (e : Element) (j : Nat) (v : Half) :
    (e.writeW j v).identified = e.identified := rfl

@[simp] theorem Element.writeW_trace (e : Element) (j : Nat) (v : Half) :
    (e.writeW j v).trace = e.trace := rfl

@[simp] theorem Element.writeW_fault (e : Element) (j : Nat) (v : Half) :
    (e.writeW j v).fault = e.fault := rfl

@[simp] theorem Element.writeW_seed (e : Element) (j : Nat) (v : Half) :
    (e.writeW j v).seed = e.seed := rfl

@[simp] theorem Element.writeCtr_w (e : Element) (j : Nat) (v : Half) :
    (e.writeCtr j v).w = e.w := rfl

@[simp] theorem Element.writeCtr_ctr (e : Element) (j : Nat) (v : Half) :
    (e.writeCtr j v).ctr = e.ctr.setIfInBounds j ⟨v, true⟩ := rfl

@[simp] theorem Element.writeCtr_ks (e : Element) (j : Nat) (v : Half) :
    (e.writeCtr j v).ks = e.ks := rfl

@[simp] theorem Element.writeCtr_row (e : Element) (j : Nat) (v : Half) :
    (e.writeCtr j v).row = e.row := rfl

@[simp] theorem Element.writeCtr_col (e : Element) (j : Nat) (v : Half) :
    (e.writeCtr j v).col = e.col := rfl

@[simp] theorem Element.writeCtr_identified (e : Element) (j : Nat) (v : Half) :
    (e.writeCtr j v).identified = e.identified := rfl

@[simp] theorem Element.writeCtr_trace (e : Element) (j : Nat) (v : Half) :
    (e.writeCtr j v).trace = e.trace := rfl

@[simp] theorem Element.writeCtr_fault (e : Element) (j : Nat) (v : Half) :
    (e.writeCtr j v).fault = e.fault := rfl

@[simp] theorem Element.writeCtr_seed (e : Element) (j : Nat) (v : Half) :
    (e.writeCtr j v).seed = e.seed := rfl

@[simp] theorem Element.writeKs_w (e : Element) (j : Nat) (v : Half) :
    (e.writeKs j v).w = e.w := rfl

@[simp] theorem Element.writeKs_ctr (e : Element) (j : Nat) (v : Half) :
    (e.writeKs j v).ctr = e.ctr := rfl

@[simp] theorem Element.writeKs_ks (e : Element) (j : Nat) (v : Half) :
    (e.writeKs j v).ks = e.ks.setIfInBounds j ⟨v, true⟩ := rfl

@[simp] theorem Element.writeKs_row (e : Element) (j : Nat) (v : Half) :
    (e.writeKs j v).row = e.row := rfl

@[simp] theorem Element.writeKs_col (e : Element) (j : Nat) (v : Half) :
    (e.writeKs j v).col = e.col := rfl

@[simp] theorem Element.writeKs_identified (e : Element) (j : Nat) (v : Half) :
    (e.writeKs j v).identified = e.identified := rfl

@[simp] theorem Element.writeKs_trace (e : Element) (j : Nat) (v : Half) :
    (e.writeKs j v).trace = e.trace := rfl

@[simp] theorem Element.writeKs_fault (e : Element) (j : Nat) (v : Half) :
    (e.writeKs j v).fault = e.fault := rfl

@[simp] theorem Element.writeKs_seed (e : Element) (j : Nat) (v : Half) :
    (e.writeKs j v).seed = e.seed := rfl


/-! ### One Word32 written: what stays -/


@[simp] theorem Element.setWd_ctr (e : Element) (i : Nat) (x : Word32) :
    (e.setWd i x).ctr = e.ctr := rfl

@[simp] theorem Element.setWd_ks (e : Element) (i : Nat) (x : Word32) :
    (e.setWd i x).ks = e.ks := rfl

@[simp] theorem Element.setWd_row (e : Element) (i : Nat) (x : Word32) :
    (e.setWd i x).row = e.row := rfl

@[simp] theorem Element.setWd_col (e : Element) (i : Nat) (x : Word32) :
    (e.setWd i x).col = e.col := rfl

@[simp] theorem Element.setWd_identified (e : Element) (i : Nat) (x : Word32) :
    (e.setWd i x).identified = e.identified := rfl

@[simp] theorem Element.setWd_trace (e : Element) (i : Nat) (x : Word32) :
    (e.setWd i x).trace = e.trace := rfl

@[simp] theorem Element.setWd_fault (e : Element) (i : Nat) (x : Word32) :
    (e.setWd i x).fault = e.fault := rfl

@[simp] theorem Element.setWd_seed (e : Element) (i : Nat) (x : Word32) :
    (e.setWd i x).seed = e.seed := rfl

@[simp] theorem Element.setKd_w (e : Element) (i : Nat) (x : Word32) :
    (e.setKd i x).w = e.w := rfl

@[simp] theorem Element.setKd_ctr (e : Element) (i : Nat) (x : Word32) :
    (e.setKd i x).ctr = e.ctr := rfl

@[simp] theorem Element.setKd_row (e : Element) (i : Nat) (x : Word32) :
    (e.setKd i x).row = e.row := rfl

@[simp] theorem Element.setKd_col (e : Element) (i : Nat) (x : Word32) :
    (e.setKd i x).col = e.col := rfl

@[simp] theorem Element.setKd_identified (e : Element) (i : Nat) (x : Word32) :
    (e.setKd i x).identified = e.identified := rfl

@[simp] theorem Element.setKd_trace (e : Element) (i : Nat) (x : Word32) :
    (e.setKd i x).trace = e.trace := rfl

@[simp] theorem Element.setKd_fault (e : Element) (i : Nat) (x : Word32) :
    (e.setKd i x).fault = e.fault := rfl

@[simp] theorem Element.setKd_seed (e : Element) (i : Nat) (x : Word32) :
    (e.setKd i x).seed = e.seed := rfl


/-! ### FAULT recorded: what stays -/


@[simp] theorem Element.noteReads_w (pc : Nat) (reads : List Nat) (e : Element) :
    (e.noteReads pc reads).w = e.w := by
  unfold Element.noteReads; repeat (first | rfl | split)

@[simp] theorem Element.noteReads_ctr (pc : Nat) (reads : List Nat) (e : Element) :
    (e.noteReads pc reads).ctr = e.ctr := by
  unfold Element.noteReads; repeat (first | rfl | split)

@[simp] theorem Element.noteReads_ks (pc : Nat) (reads : List Nat) (e : Element) :
    (e.noteReads pc reads).ks = e.ks := by
  unfold Element.noteReads; repeat (first | rfl | split)

@[simp] theorem Element.noteReads_row (pc : Nat) (reads : List Nat) (e : Element) :
    (e.noteReads pc reads).row = e.row := by
  unfold Element.noteReads; repeat (first | rfl | split)

@[simp] theorem Element.noteReads_col (pc : Nat) (reads : List Nat) (e : Element) :
    (e.noteReads pc reads).col = e.col := by
  unfold Element.noteReads; repeat (first | rfl | split)

@[simp] theorem Element.noteReads_identified (pc : Nat) (reads : List Nat) (e : Element) :
    (e.noteReads pc reads).identified = e.identified := by
  unfold Element.noteReads; repeat (first | rfl | split)

@[simp] theorem Element.noteReads_trace (pc : Nat) (reads : List Nat) (e : Element) :
    (e.noteReads pc reads).trace = e.trace := by
  unfold Element.noteReads; repeat (first | rfl | split)

@[simp] theorem Element.noteReads_seed (pc : Nat) (reads : List Nat) (e : Element) :
    (e.noteReads pc reads).seed = e.seed := by
  unfold Element.noteReads; repeat (first | rfl | split)


/-! ### The bodies of the operations: what stays -/


@[simp] theorem Element.mix_ctr (x y t : Nat) (e : Element) :
    (e.mix x y t).ctr = e.ctr := by
  simp [Element.mix]

@[simp] theorem Element.mix_ks (x y t : Nat) (e : Element) :
    (e.mix x y t).ks = e.ks := by
  simp [Element.mix]

@[simp] theorem Element.mix_row (x y t : Nat) (e : Element) :
    (e.mix x y t).row = e.row := by
  simp [Element.mix]

@[simp] theorem Element.mix_col (x y t : Nat) (e : Element) :
    (e.mix x y t).col = e.col := by
  simp [Element.mix]

@[simp] theorem Element.mix_identified (x y t : Nat) (e : Element) :
    (e.mix x y t).identified = e.identified := by
  simp [Element.mix]

@[simp] theorem Element.mix_trace (x y t : Nat) (e : Element) :
    (e.mix x y t).trace = e.trace := by
  simp [Element.mix]

@[simp] theorem Element.mix_fault (x y t : Nat) (e : Element) :
    (e.mix x y t).fault = e.fault := by
  simp [Element.mix]

@[simp] theorem Element.mix_seed (x y t : Nat) (e : Element) :
    (e.mix x y t).seed = e.seed := by
  simp [Element.mix]

@[simp] theorem Element.keyschedBody_w (e : Element) :
    (e.keyschedBody).w = e.w := by
  simp [Element.keyschedBody]

@[simp] theorem Element.keyschedBody_ctr (e : Element) :
    (e.keyschedBody).ctr = e.ctr := by
  simp [Element.keyschedBody]

@[simp] theorem Element.keyschedBody_row (e : Element) :
    (e.keyschedBody).row = e.row := by
  simp [Element.keyschedBody]

@[simp] theorem Element.keyschedBody_col (e : Element) :
    (e.keyschedBody).col = e.col := by
  simp [Element.keyschedBody]

@[simp] theorem Element.keyschedBody_identified (e : Element) :
    (e.keyschedBody).identified = e.identified := by
  simp [Element.keyschedBody]

@[simp] theorem Element.keyschedBody_trace (e : Element) :
    (e.keyschedBody).trace = e.trace := by
  simp [Element.keyschedBody]

@[simp] theorem Element.keyschedBody_fault (e : Element) :
    (e.keyschedBody).fault = e.fault := by
  simp [Element.keyschedBody]

@[simp] theorem Element.keyschedBody_seed (e : Element) :
    (e.keyschedBody).seed = e.seed := by
  simp [Element.keyschedBody]

@[simp] theorem Element.keyidBody_w (e : Element) :
    (e.keyidBody).w = e.w := by
  simp [Element.keyidBody]

@[simp] theorem Element.keyidBody_ctr (e : Element) :
    (e.keyidBody).ctr = e.ctr := by
  simp [Element.keyidBody]

@[simp] theorem Element.keyidBody_row (e : Element) :
    (e.keyidBody).row = e.row := by
  simp [Element.keyidBody]

@[simp] theorem Element.keyidBody_col (e : Element) :
    (e.keyidBody).col = e.col := by
  simp [Element.keyidBody]

@[simp] theorem Element.keyidBody_identified (e : Element) :
    (e.keyidBody).identified = e.identified := by
  simp [Element.keyidBody]

@[simp] theorem Element.keyidBody_trace (e : Element) :
    (e.keyidBody).trace = e.trace := by
  simp [Element.keyidBody]

@[simp] theorem Element.keyidBody_fault (e : Element) :
    (e.keyidBody).fault = e.fault := by
  simp [Element.keyidBody]

@[simp] theorem Element.keyidBody_seed (e : Element) :
    (e.keyidBody).seed = e.seed := by
  simp [Element.keyidBody]

@[simp] theorem Element.injectWord_ctr (q i : Nat) (e : Element) :
    (e.injectWord q i).ctr = e.ctr := by
  simp [Element.injectWord]

@[simp] theorem Element.injectWord_ks (q i : Nat) (e : Element) :
    (e.injectWord q i).ks = e.ks := by
  simp [Element.injectWord]

@[simp] theorem Element.injectWord_row (q i : Nat) (e : Element) :
    (e.injectWord q i).row = e.row := by
  simp [Element.injectWord]

@[simp] theorem Element.injectWord_col (q i : Nat) (e : Element) :
    (e.injectWord q i).col = e.col := by
  simp [Element.injectWord]

@[simp] theorem Element.injectWord_identified (q i : Nat) (e : Element) :
    (e.injectWord q i).identified = e.identified := by
  simp [Element.injectWord]

@[simp] theorem Element.injectWord_trace (q i : Nat) (e : Element) :
    (e.injectWord q i).trace = e.trace := by
  simp [Element.injectWord]

@[simp] theorem Element.injectWord_fault (q i : Nat) (e : Element) :
    (e.injectWord q i).fault = e.fault := by
  simp [Element.injectWord]

@[simp] theorem Element.injectWord_seed (q i : Nat) (e : Element) :
    (e.injectWord q i).seed = e.seed := by
  simp [Element.injectWord]

@[simp] theorem Element.injectBody_ctr (q : Nat) (e : Element) :
    (e.injectBody q).ctr = e.ctr := by
  simp [Element.injectBody]

@[simp] theorem Element.injectBody_ks (q : Nat) (e : Element) :
    (e.injectBody q).ks = e.ks := by
  simp [Element.injectBody]

@[simp] theorem Element.injectBody_row (q : Nat) (e : Element) :
    (e.injectBody q).row = e.row := by
  simp [Element.injectBody]

@[simp] theorem Element.injectBody_col (q : Nat) (e : Element) :
    (e.injectBody q).col = e.col := by
  simp [Element.injectBody]

@[simp] theorem Element.injectBody_identified (q : Nat) (e : Element) :
    (e.injectBody q).identified = e.identified := by
  simp [Element.injectBody]

@[simp] theorem Element.injectBody_trace (q : Nat) (e : Element) :
    (e.injectBody q).trace = e.trace := by
  simp [Element.injectBody]

@[simp] theorem Element.injectBody_fault (q : Nat) (e : Element) :
    (e.injectBody q).fault = e.fault := by
  simp [Element.injectBody]

@[simp] theorem Element.injectBody_seed (q : Nat) (e : Element) :
    (e.injectBody q).seed = e.seed := by
  simp [Element.injectBody]

@[simp] theorem Element.initWord_ctr (i : Nat) (e : Element) :
    (e.initWord i).ctr = e.ctr := by
  simp [Element.initWord]

@[simp] theorem Element.initWord_ks (i : Nat) (e : Element) :
    (e.initWord i).ks = e.ks := by
  simp [Element.initWord]

@[simp] theorem Element.initWord_row (i : Nat) (e : Element) :
    (e.initWord i).row = e.row := by
  simp [Element.initWord]

@[simp] theorem Element.initWord_col (i : Nat) (e : Element) :
    (e.initWord i).col = e.col := by
  simp [Element.initWord]

@[simp] theorem Element.initWord_identified (i : Nat) (e : Element) :
    (e.initWord i).identified = e.identified := by
  simp [Element.initWord]

@[simp] theorem Element.initWord_trace (i : Nat) (e : Element) :
    (e.initWord i).trace = e.trace := by
  simp [Element.initWord]

@[simp] theorem Element.initWord_fault (i : Nat) (e : Element) :
    (e.initWord i).fault = e.fault := by
  simp [Element.initWord]

@[simp] theorem Element.initWord_seed (i : Nat) (e : Element) :
    (e.initWord i).seed = e.seed := by
  simp [Element.initWord]

@[simp] theorem Element.initBody_ctr (e : Element) :
    (e.initBody).ctr = e.ctr := by
  simp [Element.initBody]

@[simp] theorem Element.initBody_row (e : Element) :
    (e.initBody).row = e.row := by
  simp [Element.initBody]

@[simp] theorem Element.initBody_col (e : Element) :
    (e.initBody).col = e.col := by
  simp [Element.initBody]

@[simp] theorem Element.initBody_identified (e : Element) :
    (e.initBody).identified = e.identified := by
  simp [Element.initBody]

@[simp] theorem Element.initBody_trace (e : Element) :
    (e.initBody).trace = e.trace := by
  simp [Element.initBody]

@[simp] theorem Element.initBody_fault (e : Element) :
    (e.initBody).fault = e.fault := by
  simp [Element.initBody]

@[simp] theorem Element.initBody_seed (e : Element) :
    (e.initBody).seed = e.seed := by
  simp [Element.initBody]

@[simp] theorem Element.dumpBody_w (h : Nat) (e : Element) :
    (e.dumpBody h).w = e.w := rfl

@[simp] theorem Element.dumpBody_ctr (h : Nat) (e : Element) :
    (e.dumpBody h).ctr = e.ctr := rfl

@[simp] theorem Element.dumpBody_ks (h : Nat) (e : Element) :
    (e.dumpBody h).ks = e.ks := rfl

@[simp] theorem Element.dumpBody_row (h : Nat) (e : Element) :
    (e.dumpBody h).row = e.row := rfl

@[simp] theorem Element.dumpBody_col (h : Nat) (e : Element) :
    (e.dumpBody h).col = e.col := rfl

@[simp] theorem Element.dumpBody_identified (h : Nat) (e : Element) :
    (e.dumpBody h).identified = e.identified := rfl

@[simp] theorem Element.dumpBody_fault (h : Nat) (e : Element) :
    (e.dumpBody h).fault = e.fault := rfl

@[simp] theorem Element.dumpBody_seed (h : Nat) (e : Element) :
    (e.dumpBody h).seed = e.seed := rfl

@[simp] theorem Element.roundBody_ctr (n : Nat) (e : Element) :
    (e.roundBody n).ctr = e.ctr := by
  unfold Element.roundBody; dsimp only; split <;> simp

@[simp] theorem Element.roundBody_ks (n : Nat) (e : Element) :
    (e.roundBody n).ks = e.ks := by
  unfold Element.roundBody; dsimp only; split <;> simp

@[simp] theorem Element.roundBody_row (n : Nat) (e : Element) :
    (e.roundBody n).row = e.row := by
  unfold Element.roundBody; dsimp only; split <;> simp

@[simp] theorem Element.roundBody_col (n : Nat) (e : Element) :
    (e.roundBody n).col = e.col := by
  unfold Element.roundBody; dsimp only; split <;> simp

@[simp] theorem Element.roundBody_identified (n : Nat) (e : Element) :
    (e.roundBody n).identified = e.identified := by
  unfold Element.roundBody; dsimp only; split <;> simp

@[simp] theorem Element.roundBody_trace (n : Nat) (e : Element) :
    (e.roundBody n).trace = e.trace := by
  unfold Element.roundBody; dsimp only; split <;> simp

@[simp] theorem Element.roundBody_fault (n : Nat) (e : Element) :
    (e.roundBody n).fault = e.fault := by
  unfold Element.roundBody; dsimp only; split <;> simp

@[simp] theorem Element.roundBody_seed (n : Nat) (e : Element) :
    (e.roundBody n).seed = e.seed := by
  unfold Element.roundBody; dsimp only; split <;> simp

@[simp] theorem Element.genTurn_ctr (e : Element) (n : Nat) :
    (e.genTurn n).ctr = e.ctr := by
  unfold Element.genTurn; split <;> simp

@[simp] theorem Element.genTurn_ks (e : Element) (n : Nat) :
    (e.genTurn n).ks = e.ks := by
  unfold Element.genTurn; split <;> simp

@[simp] theorem Element.genTurn_row (e : Element) (n : Nat) :
    (e.genTurn n).row = e.row := by
  unfold Element.genTurn; split <;> simp

@[simp] theorem Element.genTurn_col (e : Element) (n : Nat) :
    (e.genTurn n).col = e.col := by
  unfold Element.genTurn; split <;> simp

@[simp] theorem Element.genTurn_identified (e : Element) (n : Nat) :
    (e.genTurn n).identified = e.identified := by
  unfold Element.genTurn; split <;> simp

@[simp] theorem Element.genTurn_trace (e : Element) (n : Nat) :
    (e.genTurn n).trace = e.trace := by
  unfold Element.genTurn; split <;> simp

@[simp] theorem Element.genTurn_fault (e : Element) (n : Nat) :
    (e.genTurn n).fault = e.fault := by
  unfold Element.genTurn; split <;> simp

@[simp] theorem Element.genTurn_seed (e : Element) (n : Nat) :
    (e.genTurn n).seed = e.seed := by
  unfold Element.genTurn; split <;> simp

theorem Element.genTurns_ctr (ns : List Nat) (e : Element) :
    (ns.foldl Element.genTurn e).ctr = e.ctr := by
  induction ns generalizing e with
  | nil => rfl
  | cons n ns ih => simp [ih]

theorem Element.genTurns_ks (ns : List Nat) (e : Element) :
    (ns.foldl Element.genTurn e).ks = e.ks := by
  induction ns generalizing e with
  | nil => rfl
  | cons n ns ih => simp [ih]

theorem Element.genTurns_row (ns : List Nat) (e : Element) :
    (ns.foldl Element.genTurn e).row = e.row := by
  induction ns generalizing e with
  | nil => rfl
  | cons n ns ih => simp [ih]

theorem Element.genTurns_col (ns : List Nat) (e : Element) :
    (ns.foldl Element.genTurn e).col = e.col := by
  induction ns generalizing e with
  | nil => rfl
  | cons n ns ih => simp [ih]

theorem Element.genTurns_identified (ns : List Nat) (e : Element) :
    (ns.foldl Element.genTurn e).identified = e.identified := by
  induction ns generalizing e with
  | nil => rfl
  | cons n ns ih => simp [ih]

theorem Element.genTurns_trace (ns : List Nat) (e : Element) :
    (ns.foldl Element.genTurn e).trace = e.trace := by
  induction ns generalizing e with
  | nil => rfl
  | cons n ns ih => simp [ih]

theorem Element.genTurns_fault (ns : List Nat) (e : Element) :
    (ns.foldl Element.genTurn e).fault = e.fault := by
  induction ns generalizing e with
  | nil => rfl
  | cons n ns ih => simp [ih]

theorem Element.genTurns_seed (ns : List Nat) (e : Element) :
    (ns.foldl Element.genTurn e).seed = e.seed := by
  induction ns generalizing e with
  | nil => rfl
  | cons n ns ih => simp [ih]

@[simp] theorem Element.genBody_ctr (e : Element) :
    e.genBody.ctr = e.ctr := by
  simp [Element.genBody, Element.genTurns_ctr]

@[simp] theorem Element.genBody_row (e : Element) :
    e.genBody.row = e.row := by
  simp [Element.genBody, Element.genTurns_row]

@[simp] theorem Element.genBody_col (e : Element) :
    e.genBody.col = e.col := by
  simp [Element.genBody, Element.genTurns_col]

@[simp] theorem Element.genBody_identified (e : Element) :
    e.genBody.identified = e.identified := by
  simp [Element.genBody, Element.genTurns_identified]

@[simp] theorem Element.genBody_trace (e : Element) :
    e.genBody.trace = e.trace := by
  simp [Element.genBody, Element.genTurns_trace]

@[simp] theorem Element.genBody_fault (e : Element) :
    e.genBody.fault = e.fault := by
  simp [Element.genBody, Element.genTurns_fault]

@[simp] theorem Element.genBody_seed (e : Element) :
    e.genBody.seed = e.seed := by
  simp [Element.genBody, Element.genTurns_seed]


/-! ### The machine's updates -/


@[simp] theorem State.lockstep_elems (reads : List Nat) (body : Element → Element) (s : State) :
    (s.lockstep reads body).elems = s.elems.map (fun e => body (e.noteReads s.pc reads)) := rfl

@[simp] theorem State.lockstep_rows (reads : List Nat) (body : Element → Element) (s : State) :
    (s.lockstep reads body).rows = s.rows := rfl

@[simp] theorem State.lockstep_cols (reads : List Nat) (body : Element → Element) (s : State) :
    (s.lockstep reads body).cols = s.cols := rfl

@[simp] theorem State.lockstep_stream (reads : List Nat) (body : Element → Element) (s : State) :
    (s.lockstep reads body).stream = s.stream := rfl

@[simp] theorem State.lockstep_pc (reads : List Nat) (body : Element → Element) (s : State) :
    (s.lockstep reads body).pc = s.pc + 1 := rfl

@[simp] theorem State.lockstep_status (reads : List Nat) (body : Element → Element) (s : State) :
    (s.lockstep reads body).status = s.status := rfl

@[simp] theorem State.lockstep_err (reads : List Nat) (body : Element → Element) (s : State) :
    (s.lockstep reads body).err = s.err := rfl

@[simp] theorem State.lockstep_draws (reads : List Nat) (body : Element → Element) (s : State) :
    (s.lockstep reads body).draws = s.draws := rfl

@[simp] theorem State.lockstep_mustConstruct (reads : List Nat) (body : Element → Element) (s : State) :
    (s.lockstep reads body).mustConstruct = s.mustConstruct := rfl

@[simp] theorem State.lockstep_pending (reads : List Nat) (body : Element → Element) (s : State) :
    (s.lockstep reads body).pending = s.pending := rfl

@[simp] theorem State.lockstep_replies (reads : List Nat) (body : Element → Element) (s : State) :
    (s.lockstep reads body).replies = s.replies := rfl

@[simp] theorem State.reject_elems (err : Err) (s : State) :
    (s.reject err).elems = s.elems := rfl

@[simp] theorem State.reject_rows (err : Err) (s : State) :
    (s.reject err).rows = s.rows := rfl

@[simp] theorem State.reject_cols (err : Err) (s : State) :
    (s.reject err).cols = s.cols := rfl

@[simp] theorem State.reject_stream (err : Err) (s : State) :
    (s.reject err).stream = s.stream := rfl

@[simp] theorem State.reject_pc (err : Err) (s : State) :
    (s.reject err).pc = s.pc := rfl

@[simp] theorem State.reject_status (err : Err) (s : State) :
    (s.reject err).status = .rejected := rfl

@[simp] theorem State.reject_err (err : Err) (s : State) :
    (s.reject err).err = err := rfl

@[simp] theorem State.reject_draws (err : Err) (s : State) :
    (s.reject err).draws = s.draws := rfl

@[simp] theorem State.reject_mustConstruct (err : Err) (s : State) :
    (s.reject err).mustConstruct = s.mustConstruct := rfl

@[simp] theorem State.reject_pending (err : Err) (s : State) :
    (s.reject err).pending = s.pending := rfl

@[simp] theorem State.reject_replies (err : Err) (s : State) :
    (s.reject err).replies = s.replies := rfl

@[simp] theorem State.toReset_elems (s : State) :
    s.toReset.elems =
      s.elems.mapIdx (fun k e => Element.blank e.row e.col (s.draws + k)) := rfl

@[simp] theorem State.toReset_rows (s : State) :
    s.toReset.rows = s.rows := rfl

@[simp] theorem State.toReset_cols (s : State) :
    s.toReset.cols = s.cols := rfl

@[simp] theorem State.toReset_stream (s : State) :
    s.toReset.stream = none := rfl

@[simp] theorem State.toReset_pc (s : State) :
    s.toReset.pc = 0 := rfl

@[simp] theorem State.toReset_status (s : State) :
    s.toReset.status = .idle := rfl

@[simp] theorem State.toReset_err (s : State) :
    s.toReset.err = Err.zero := rfl

@[simp] theorem State.toReset_draws (s : State) :
    s.toReset.draws = s.draws + s.elems.length := rfl

@[simp] theorem State.toReset_mustConstruct (s : State) :
    s.toReset.mustConstruct = (s.mustConstruct || s.status == .rejected) := rfl

@[simp] theorem State.toReset_pending (s : State) :
    s.toReset.pending = s.pending := rfl

@[simp] theorem State.toReset_replies (s : State) :
    s.toReset.replies = s.replies := rfl

@[simp] theorem State.endRun_elems (s : State) :
    s.endRun.elems = s.elems := by
  unfold State.endRun; split <;> rfl

@[simp] theorem State.endRun_rows (s : State) :
    s.endRun.rows = s.rows := by
  unfold State.endRun; split <;> rfl

@[simp] theorem State.endRun_cols (s : State) :
    s.endRun.cols = s.cols := by
  unfold State.endRun; split <;> rfl

@[simp] theorem State.endRun_stream (s : State) :
    s.endRun.stream = s.stream := by
  unfold State.endRun; split <;> rfl

@[simp] theorem State.endRun_pc (s : State) :
    s.endRun.pc = s.pc := by
  unfold State.endRun; split <;> rfl

@[simp] theorem State.endRun_err (s : State) :
    s.endRun.err = s.err := by
  unfold State.endRun; split <;> rfl

@[simp] theorem State.endRun_draws (s : State) :
    s.endRun.draws = s.draws := by
  unfold State.endRun; split <;> rfl

@[simp] theorem State.endRun_mustConstruct (s : State) :
    s.endRun.mustConstruct = s.mustConstruct := by
  unfold State.endRun; split <;> rfl

@[simp] theorem State.endRun_pending (s : State) :
    s.endRun.pending = s.pending := by
  unfold State.endRun; split <;> rfl

@[simp] theorem State.endRun_replies (s : State) :
    s.endRun.replies = s.replies := by
  unfold State.endRun; split <;> rfl

/-! ### A ReadStatus answered in a run -/

@[simp] theorem State.answerStatus_elems (s : State) :
    s.answerStatus.elems = s.elems := by
  unfold State.answerStatus; split <;> rfl

@[simp] theorem State.answerStatus_rows (s : State) :
    s.answerStatus.rows = s.rows := by
  unfold State.answerStatus; split <;> rfl

@[simp] theorem State.answerStatus_cols (s : State) :
    s.answerStatus.cols = s.cols := by
  unfold State.answerStatus; split <;> rfl

@[simp] theorem State.answerStatus_stream (s : State) :
    s.answerStatus.stream = s.stream := by
  unfold State.answerStatus; split <;> rfl

@[simp] theorem State.answerStatus_pc (s : State) :
    s.answerStatus.pc = s.pc := by
  unfold State.answerStatus; split <;> rfl

@[simp] theorem State.answerStatus_status (s : State) :
    s.answerStatus.status = s.status := by
  unfold State.answerStatus; split <;> rfl

@[simp] theorem State.answerStatus_err (s : State) :
    s.answerStatus.err = s.err := by
  unfold State.answerStatus; split <;> rfl

@[simp] theorem State.answerStatus_draws (s : State) :
    s.answerStatus.draws = s.draws := by
  unfold State.answerStatus; split <;> rfl

@[simp] theorem State.answerStatus_mustConstruct (s : State) :
    s.answerStatus.mustConstruct = s.mustConstruct := by
  unfold State.answerStatus; split <;> rfl

@[simp] theorem State.answerStatus_len (s : State) : s.answerStatus.len = s.len := by
  simp [State.len]

@[simp] theorem State.answerStatus_fetch (s : State) : s.answerStatus.fetch = s.fetch := by
  simp [State.fetch]

/-! ### The identity as KEYID reads it -/

@[simp] theorem Element.noteReads_rowValue (pc : Nat) (reads : List Nat) (e : Element) :
    (e.noteReads pc reads).rowValue = e.rowValue := by simp [Element.rowValue]

@[simp] theorem Element.noteReads_colValue (pc : Nat) (reads : List Nat) (e : Element) :
    (e.noteReads pc reads).colValue = e.colValue := by simp [Element.colValue]

/-! ### An element in the reset state -/

@[simp] theorem Element.blank_row (row col : Half) (seed : Nat) :
    (Element.blank row col seed).row = row := rfl

@[simp] theorem Element.blank_col (row col : Half) (seed : Nat) :
    (Element.blank row col seed).col = col := rfl

@[simp] theorem Element.blank_identified (row col : Half) (seed : Nat) :
    (Element.blank row col seed).identified = false := rfl

@[simp] theorem Element.blank_trace (row col : Half) (seed : Nat) :
    (Element.blank row col seed).trace = [] := rfl

@[simp] theorem Element.blank_fault (row col : Half) (seed : Nat) :
    (Element.blank row col seed).fault = none := rfl

@[simp] theorem Element.blank_seed (row col : Half) (seed : Nat) :
    (Element.blank row col seed).seed = seed := rfl

end Sys2Proof.Machine
end

