-- ==== Sys2Proof/Laws/Issue.lean ====
section
/-! SUPPORT. What issuing an operation can do, once for all operations: a legal term gives the lockstep
state, a refused term a fault; `exec` of every instruction is such an issue. -/

namespace Sys2Proof.Machine

/-- A legal operation completes (R140). -/
theorem issue_legal {i : Instr} (hi : i.WellFormed) (reads : List Nat) (body : Element → Element)
    (s : State) : issue i reads body s = .next (s.lockstep reads body) := by
  unfold issue; rw [show i.check = none from hi]

/-- A refused term is not executed (U2). -/
theorem issue_refused {i : Instr} {e : TermError} (hi : i.check = some e) (reads : List Nat)
    (body : Element → Element) (s : State) : issue i reads body s = .fault (.illegalTerm e) := by
  unfold issue; rw [hi]

/-- If issuing answers a next state, the term is legal and the state is the lockstep state. -/
theorem issue_next {i : Instr} {reads : List Nat} {body : Element → Element} {s t : State}
    (h : issue i reads body s = .next t) : i.WellFormed ∧ t = s.lockstep reads body := by
  unfold issue at h
  cases hc : i.check with
  | none => rw [hc] at h; exact ⟨hc, by injection h with h; exact h.symm⟩
  | some e => rw [hc] at h; cases h

/-- The entries an operation reads, in order, each rule's own (R88 to R92, R100, R102, R110 to R114, R121,
R123, R130). -/
def readsOf : Instr → List Nat
  | .add32 _ a b => slotReads a ++ slotReads b
  | .addi32 _ a _ => slotReads a
  | .xor32 _ a b => slotReads a ++ slotReads b
  | .rotl32 _ a _ => slotReads a
  | .mix ma mb _ => mixReads ma mb
  | .inject q => injectReads q
  | .round n => roundReads n
  | .keyid => []
  | .keysched => keyReads
  | .init => keyReads ++ counterReads
  | .gen => keyReads ++ counterReads
  | .dump h => [h]

/-- The effect of an operation on one element. -/
def bodyOf : Instr → Element → Element
  | .add32 d a b => fun e => e.setWd d (add32 (e.slot a) (e.slot b))
  | .addi32 d a imm => fun e => e.setWd d (add32 (e.slot a) (scalarWord imm))
  | .xor32 d a b => fun e => e.setWd d (xor32 (e.slot a) (e.slot b))
  | .rotl32 d a amt => fun e => e.setWd d (rotl32 (e.slot a) amt)
  | .mix ma mb amt => Element.mix ma mb amt
  | .inject q => Element.injectBody q
  | .round n => Element.roundBody n
  | .keyid => Element.keyidBody
  | .keysched => Element.keyschedBody
  | .init => Element.initBody
  | .gen => Element.genBody
  | .dump h => Element.dumpBody h

/-- Every arm of `exec` issues its instruction with its own reads and body. -/
theorem exec_eq_issue (i : Instr) (s : State) : exec i s = issue i (readsOf i) (bodyOf i) s := by
  cases i <;> rfl

/-- Every legal operation completes, on every state (R140). -/
theorem exec_legal {i : Instr} (hi : i.WellFormed) (s : State) :
    exec i s = .next (s.lockstep (readsOf i) (bodyOf i)) := by
  rw [exec_eq_issue]; exact issue_legal hi _ _ s

/-- What a next state of `exec` is. -/
theorem exec_next {i : Instr} {s t : State} (h : exec i s = .next t) :
    i.WellFormed ∧ t = s.lockstep (readsOf i) (bodyOf i) := by
  rw [exec_eq_issue] at h; exact issue_next h

/-- No operation writes the identity, the counter or the seed. -/
theorem bodyOf_keeps (i : Instr) (e : Element) :
    (bodyOf i e).row = e.row ∧ (bodyOf i e).col = e.col ∧ (bodyOf i e).ctr = e.ctr ∧
      (bodyOf i e).seed = e.seed ∧ (bodyOf i e).fault = e.fault ∧
      (bodyOf i e).identified = e.identified := by
  cases i <;> simp [bodyOf]

end Sys2Proof.Machine
end

