-- ==== Sys2Proof/Laws/Storage.lean ====
section
/-! SUPPORT. The laws of the element's storage: what each entry, half and slot holds after a write, read
after write, and that reads do not depend on FAULT or TRACE (20_memory.md R41 to R43, R49, R55). -/

namespace Sys2Proof.Machine

/-! ### Entries -/

theorem Element.entry_writeW (e : Element) (j : Nat) (v : Half) (h : Nat) :
    (e.writeW j v).entry h = if h = j ∧ h < 8 then ⟨v, true⟩ else e.entry h := by
  unfold Element.entry
  by_cases h8 : h < 8
  · by_cases hj : h = j
    · subst hj; simp [h8]
    · have : ¬ j = h := fun c => hj c.symm
      simp [h8, hj, this]
  · simp [h8]

theorem Element.entry_writeCtr (e : Element) (j : Nat) (v : Half) (h : Nat) :
    (e.writeCtr j v).entry h = if h = 8 + j ∧ j < 8 then ⟨v, true⟩ else e.entry h := by
  unfold Element.entry
  by_cases h8 : h < 8
  · have : ¬ h = 8 + j := by omega
    simp [h8, this]
  · by_cases h16 : h < 16
    · by_cases hj : h = 8 + j
      · subst hj
        have hj8 : j < 8 := by omega
        simp [h16, hj8]
      · have : ¬ j = h - 8 := by omega
        simp [h8, h16, hj, this]
    · have : ¬ (h = 8 + j ∧ j < 8) := by omega
      simp [h8, h16, this]

theorem Element.entry_writeKs (e : Element) (j : Nat) (v : Half) (h : Nat) :
    (e.writeKs j v).entry h = if h = 16 + j ∧ j < 10 then ⟨v, true⟩ else e.entry h := by
  unfold Element.entry
  by_cases h16 : h < 16
  · have : ¬ (h = 16 + j ∧ j < 10) := by omega
    simp only [this, if_false]
    by_cases h8 : h < 8 <;> simp [h8, h16]
  · have h8 : ¬ h < 8 := by omega
    simp only [h8, h16, if_false]
    by_cases hj : h = 16 + j
    · subst hj
      by_cases hj10 : j < 10 <;> simp [hj10]
    · have : ¬ j = h - 16 := by omega
      simp [hj, this]

/-- An entry depends on the three arrays alone. -/
theorem Element.entry_congr {e e' : Element} (hw : e'.w = e.w) (hc : e'.ctr = e.ctr)
    (hk : e'.ks = e.ks) (h : Nat) : e'.entry h = e.entry h := by
  unfold Element.entry; rw [hw, hc, hk]

/-- Beyond the 26 entries nothing is named (R42). -/
theorem Element.entry_beyond (e : Element) {h : Nat} (hh : 26 ≤ h) : e.entry h = Entry.blank := by
  have h8 : ¬ h < 8 := by omega
  have h16 : ¬ h < 16 := by omega
  have hk : (e.ks)[h - 16]? = none := by simp; omega
  simp [Element.entry, h8, h16, hk]

/-- No entry of an element in the reset state holds a value (R33). -/
@[simp] theorem Element.entry_blank (row col : Half) (seed h : Nat) :
    (Element.blank row col seed).entry h = Entry.blank := by
  by_cases h26 : 26 ≤ h
  · exact Element.entry_beyond _ h26
  · unfold Element.entry Element.blank
    split
    · rename_i h8; simp [h8]
    · split
      · have : h - 8 < 8 := by omega
        simp [this]
      · have : h - 16 < 10 := by omega
        simp [this]

/-! ### Halves -/

theorem Element.half_of_entry {e : Element} {h : Nat} {v : Half} (he : e.entry h = ⟨v, true⟩) :
    e.half h = v := by simp [Element.half, he]

/-- Two elements that agree on an entry and on the seed agree on what a read of it takes. -/
theorem Element.half_congr {e e' : Element} {h : Nat} (he : e'.entry h = e.entry h)
    (hs : e'.seed = e.seed) : e'.half h = e.half h := by simp [Element.half, he, hs]

/-- A read of a written entry does not depend on the seed. -/
theorem Element.half_of_written {e e' : Element} {h : Nat} (he : e'.entry h = e.entry h)
    (hw : (e.entry h).written = true) : e'.half h = e.half h := by simp [Element.half, he, hw]

theorem Element.half_writeW (e : Element) (j : Nat) (v : Half) (h : Nat) :
    (e.writeW j v).half h = if h = j ∧ h < 8 then v else e.half h := by
  unfold Element.half; rw [Element.entry_writeW]; split <;> simp

theorem Element.half_writeKs (e : Element) (j : Nat) (v : Half) (h : Nat) :
    (e.writeKs j v).half h = if h = 16 + j ∧ j < 10 then v else e.half h := by
  unfold Element.half; rw [Element.entry_writeKs]; split <;> simp

theorem Element.half_writeCtr (e : Element) (j : Nat) (v : Half) (h : Nat) :
    (e.writeCtr j v).half h = if h = 8 + j ∧ j < 8 then v else e.half h := by
  unfold Element.half; rw [Element.entry_writeCtr]; split <;> simp

/-! ### Word32s -/

theorem Element.entry_setWd (e : Element) {i : Nat} (hi : i < 4) (x : Word32) (h : Nat) :
    (e.setWd i x).entry h =
      if h = 2 * i then ⟨x.hi, true⟩ else if h = 2 * i + 1 then ⟨x.lo, true⟩ else e.entry h := by
  unfold Element.setWd
  rw [Element.entry_writeW, Element.entry_writeW]
  have : 2 * i + 1 < 8 := by omega
  split_ifs <;> first | rfl | omega

theorem Element.entry_setKd (e : Element) {i : Nat} (hi : i < 5) (x : Word32) (h : Nat) :
    (e.setKd i x).entry h =
      if h = 16 + 2 * i then ⟨x.hi, true⟩
      else if h = 16 + 2 * i + 1 then ⟨x.lo, true⟩ else e.entry h := by
  unfold Element.setKd
  rw [Element.entry_writeKs, Element.entry_writeKs]
  split_ifs <;> first | rfl | omega

theorem Element.slot_congr {e e' : Element} {s : Nat}
    (he : ∀ h, e'.entry h = e.entry h) (hs : e'.seed = e.seed) : e'.slot s = e.slot s := by
  unfold Element.slot
  rw [Element.half_congr (he _) hs, Element.half_congr (he _) hs]

/-- Slot s after a write of working word i. -/
theorem Element.slot_setWd (e : Element) {i : Nat} (hi : i < 4) (x : Word32) (s : Nat) :
    (e.setWd i x).slot s = if s = i then x else e.slot s := by
  unfold Element.slot Element.half
  rw [Element.entry_setWd _ hi, Element.entry_setWd _ hi, Element.setWd_seed]
  by_cases hs : s = i
  · subst hs; simp
  · have h1 : ¬ (2 * s = 2 * i) := by omega
    have h2 : ¬ (2 * s = 2 * i + 1) := by omega
    have h3 : ¬ (2 * s + 1 = 2 * i) := by omega
    have h4 : ¬ (2 * s + 1 = 2 * i + 1) := by omega
    simp only [hs, h1, h2, h3, h4, if_false]

/-- Slot s after a write of key or parity word i. -/
theorem Element.slot_setKd (e : Element) {i : Nat} (hi : i < 5) (x : Word32) (s : Nat) :
    (e.setKd i x).slot s = if s = 8 + i then x else e.slot s := by
  unfold Element.slot Element.half
  rw [Element.entry_setKd _ hi, Element.entry_setKd _ hi, Element.setKd_seed]
  by_cases hs : s = 8 + i
  · subst hs
    have h1 : 2 * (8 + i) = 16 + 2 * i := by omega
    simp [h1]
  · have h1 : ¬ (2 * s = 16 + 2 * i) := by omega
    have h2 : ¬ (2 * s = 16 + 2 * i + 1) := by omega
    have h3 : ¬ (2 * s + 1 = 16 + 2 * i) := by omega
    have h4 : ¬ (2 * s + 1 = 16 + 2 * i + 1) := by omega
    simp only [hs, h1, h2, h3, h4, if_false]

/-! ### FAULT and reads -/

@[simp] theorem Element.entry_noteReads (pc : Nat) (reads : List Nat) (e : Element) (h : Nat) :
    (e.noteReads pc reads).entry h = e.entry h := Element.entry_congr (by simp) (by simp) (by simp) h

@[simp] theorem Element.half_noteReads (pc : Nat) (reads : List Nat) (e : Element) (h : Nat) :
    (e.noteReads pc reads).half h = e.half h := Element.half_congr (by simp) (by simp)

@[simp] theorem Element.slot_noteReads (pc : Nat) (reads : List Nat) (e : Element) (s : Nat) :
    (e.noteReads pc reads).slot s = e.slot s := by simp [Element.slot]

/-- What FAULT is after the reads of an operation: what it was if set, else the first unwritten entry in
read order (R35). -/
theorem Element.noteReads_fault (pc : Nat) (reads : List Nat) (e : Element) :
    (e.noteReads pc reads).fault =
      e.fault.or ((reads.find? (fun h => !(e.entry h).written)).map (fun h => ⟨h, pc⟩)) := by
  unfold Element.noteReads
  cases hf : e.fault with
  | some f => simp [hf]
  | none =>
    cases hr : reads.find? (fun h => !(e.entry h).written) with
    | some h => simp
    | none => simp [hf]

/-- Recording FAULT changes FAULT alone. -/
theorem Element.noteReads_eq (pc : Nat) (reads : List Nat) (e : Element) :
    e.noteReads pc reads = { e with fault := (e.noteReads pc reads).fault } := by
  unfold Element.noteReads; repeat (first | rfl | split)

end Sys2Proof.Machine
end

