-- ==== Sys2Proof/Laws/Bodies.lean ====
section
/-! SUPPORT. What the shared bodies do to the storage of an element: the slots after Mix, the entries after
Initialize, and that rounds and injections touch the working words alone (41_mix_round.md R100, R102;
42_key_schedule.md R114; 43_engine.md R121, R123). -/

namespace Sys2Proof.Machine

/-- From `e` to `e'` the entries of CTR and KS stay, and what was written stays written. -/
def OnlyWorking (e e' : Element) : Prop :=
  (∀ h, 8 ≤ h → e'.entry h = e.entry h) ∧
    ∀ h, (e.entry h).written = true → (e'.entry h).written = true

theorem onlyWorking_refl (e : Element) : OnlyWorking e e := ⟨fun _ _ => rfl, fun _ h => h⟩

theorem onlyWorking_trans {e₁ e₂ e₃ : Element} (h : OnlyWorking e₁ e₂) (h' : OnlyWorking e₂ e₃) :
    OnlyWorking e₁ e₃ :=
  ⟨fun k hk => (h'.1 k hk).trans (h.1 k hk), fun k hk => h'.2 k (h.2 k hk)⟩

theorem onlyWorking_setWd (e : Element) {i : Nat} (hi : i < 4) (x : Word32) :
    OnlyWorking e (e.setWd i x) := by
  refine ⟨fun h hh => ?_, fun h hw => ?_⟩ <;> rw [Element.entry_setWd _ hi]
  · rw [if_neg (by omega), if_neg (by omega)]
  · split_ifs <;> simp [hw]

theorem onlyWorking_mix (e : Element) {x y : Nat} (t : Nat) (hx : x < 4) (hy : y < 4) :
    OnlyWorking e (e.mix x y t) :=
  onlyWorking_trans (onlyWorking_trans (onlyWorking_setWd _ hx _) (onlyWorking_setWd _ hy _))
    (onlyWorking_setWd _ hy _)

theorem onlyWorking_round (e : Element) (n : Nat) : OnlyWorking e (e.roundBody n) := by
  unfold Element.roundBody
  dsimp only
  split
  · exact onlyWorking_trans (onlyWorking_mix _ _ (x := 0) (y := 1) (by omega) (by omega))
      (onlyWorking_mix _ _ (x := 2) (y := 3) (by omega) (by omega))
  · exact onlyWorking_trans (onlyWorking_mix _ _ (x := 0) (y := 3) (by omega) (by omega))
      (onlyWorking_mix _ _ (x := 2) (y := 1) (by omega) (by omega))

theorem onlyWorking_injectWord (e : Element) (q : Nat) {i : Nat} (hi : i < 4) :
    OnlyWorking e (e.injectWord q i) := onlyWorking_setWd _ hi _

theorem onlyWorking_inject (e : Element) (q : Nat) : OnlyWorking e (e.injectBody q) := by
  have a := onlyWorking_injectWord e q (i := 0) (by omega)
  have b := onlyWorking_injectWord (e.injectWord q 0) q (i := 1) (by omega)
  have c := onlyWorking_injectWord ((e.injectWord q 0).injectWord q 1) q (i := 2) (by omega)
  have d := onlyWorking_injectWord (((e.injectWord q 0).injectWord q 1).injectWord q 2) q (i := 3)
    (by omega)
  exact onlyWorking_trans
    (onlyWorking_trans (onlyWorking_trans (onlyWorking_trans a b) c) d)
    (onlyWorking_setWd _ (by omega) _)

theorem onlyWorking_genTurn (e : Element) (n : Nat) : OnlyWorking e (e.genTurn n) := by
  unfold Element.genTurn
  split
  · exact onlyWorking_trans (onlyWorking_inject _ _) (onlyWorking_round _ _)
  · exact onlyWorking_round _ _

theorem onlyWorking_genTurns (ns : List Nat) (e : Element) :
    OnlyWorking e (ns.foldl Element.genTurn e) := by
  induction ns generalizing e with
  | nil => exact onlyWorking_refl _
  | cons n ns ih => exact onlyWorking_trans (onlyWorking_genTurn e n) (ih _)

/-- After Initialize the generator writes working words alone. -/
theorem onlyWorking_gen (e : Element) : OnlyWorking e.initBody e.genBody :=
  onlyWorking_trans (onlyWorking_genTurns _ _) (onlyWorking_inject _ _)

/-- The slots after Mix, in terms of the values before. -/
theorem slot_mix (e : Element) {x y : Nat} (t j : Nat) (hx : x < 4) (hy : y < 4) (hxy : x ≠ y) :
    (e.mix x y t).slot j =
      if j = x then add32 (e.slot x) (e.slot y)
      else if j = y then xor32 (rotl32 (e.slot y) t) (add32 (e.slot x) (e.slot y)) else e.slot j := by
  simp only [Element.mix, Element.wd, Element.slot_setWd _ hx, Element.slot_setWd _ hy]
  by_cases h1 : j = x
  · subst h1; simp [hxy]
  · by_cases h2 : j = y
    · subst h2; simp [h1, hxy]
    · simp [h1, h2]

/-- The entries after Mix, in terms of the values before. -/
theorem entry_mix (e : Element) {x y : Nat} (t h : Nat) (hx : x < 4) (hy : y < 4) (hxy : x ≠ y) :
    (e.mix x y t).entry h =
      if h = 2 * x then ⟨(add32 (e.slot x) (e.slot y)).hi, true⟩
      else if h = 2 * x + 1 then ⟨(add32 (e.slot x) (e.slot y)).lo, true⟩
      else if h = 2 * y then
        ⟨(xor32 (rotl32 (e.slot y) t) (add32 (e.slot x) (e.slot y))).hi, true⟩
      else if h = 2 * y + 1 then
        ⟨(xor32 (rotl32 (e.slot y) t) (add32 (e.slot x) (e.slot y))).lo, true⟩
      else e.entry h := by
  simp only [Element.mix, Element.wd, Element.entry_setWd _ hx, Element.entry_setWd _ hy,
    Element.slot_setWd _ hx, Element.slot_setWd _ hy, hxy, Ne.symm hxy, if_true, if_false]
  split_ifs <;> first | rfl | omega

theorem entry_initBody_aux (e : Element) (p x₀ x₁ x₂ x₃ : Word32) (h : Nat) :
    (h < 8 ∨ h = 24 ∨ h = 25 →
      ((((((e.setKd 4 p).setWd 0 x₀).setWd 1 x₁).setWd 2 x₂).setWd 3 x₃).entry h).written = true) ∧
    (¬ (h < 8 ∨ h = 24 ∨ h = 25) →
      (((((e.setKd 4 p).setWd 0 x₀).setWd 1 x₁).setWd 2 x₂).setWd 3 x₃).entry h = e.entry h) := by
  simp (disch := omega) only [Element.entry_setWd, Element.entry_setKd]
  constructor
  · intro hh
    have : h = 0 ∨ h = 1 ∨ h = 2 ∨ h = 3 ∨ h = 4 ∨ h = 5 ∨ h = 6 ∨ h = 7 ∨ h = 24 ∨ h = 25 := by omega
    rcases this with rfl | rfl | rfl | rfl | rfl | rfl | rfl | rfl | rfl | rfl <;> rfl
  · intro hh
    repeat rw [if_neg (by omega)]

/-- Initialize writes W[0..7] and KS[8..9]. -/
theorem initBody_written (e : Element) {h : Nat} (hh : h < 8 ∨ h = 24 ∨ h = 25) :
    (e.initBody.entry h).written = true := (entry_initBody_aux e _ _ _ _ _ h).1 hh

/-- Initialize leaves every other entry. -/
theorem initBody_entry (e : Element) {h : Nat} (hh : ¬ (h < 8 ∨ h = 24 ∨ h = 25)) :
    e.initBody.entry h = e.entry h := (entry_initBody_aux e _ _ _ _ _ h).2 hh

/-- Equal entries, identity, TRACE, FAULT and seed make equal elements. -/
theorem element_ext {e e' : Element} (h : ∀ k, e.entry k = e'.entry k) (hr : e.row = e'.row)
    (hc : e.col = e'.col) (hi : e.identified = e'.identified) (ht : e.trace = e'.trace) (hf : e.fault = e'.fault)
    (hs : e.seed = e'.seed) : e = e' := by
  have hw : e.w = e'.w := by
    apply Vector.ext; intro i hi
    have := h i
    simp only [Element.entry, hi, if_true] at this
    simpa [Vector.getElem?_eq_getElem hi] using this
  have hctr : e.ctr = e'.ctr := by
    apply Vector.ext; intro i hi
    have := h (8 + i)
    simp only [Element.entry, show ¬ 8 + i < 8 by omega, show 8 + i < 16 by omega, if_true, if_false,
      Nat.add_sub_cancel_left] at this
    simpa [Vector.getElem?_eq_getElem hi] using this
  have hk : e.ks = e'.ks := by
    apply Vector.ext; intro i hi
    have := h (16 + i)
    simp only [Element.entry, show ¬ 16 + i < 8 by omega, show ¬ 16 + i < 16 by omega, if_false,
      Nat.add_sub_cancel_left] at this
    simpa [Vector.getElem?_eq_getElem hi] using this
  cases e; cases e'; simp_all

end Sys2Proof.Machine
end

