-- ==== Sys2Proof/Laws/Decode.lean ====
section
/-! SUPPORT. The fields of an encoded word, one lemma per format, and what the decoder's field checks read
from them (30_encoding.md R62, R70). -/

namespace Sys2Proof

/-- A field of a word given as a number below 2^16. -/
theorem bitField_ofNat {n : Nat} (hn : n < 2 ^ 16) (hi lo : Nat) :
    bitField (BitVec.ofNat 16 n) hi lo = n / 2 ^ lo % 2 ^ (hi + 1 - lo) := by
  simp only [bitField, BitVec.toNat_ofNat, Nat.mod_eq_of_lt hn]

/-- A working-word field that holds the number of `d` names `d`. -/
theorem wordField_eq {w : OpWord} {lo : Nat} {d : Fin 4} (h : bitField w (lo + 1) lo = d.val) :
    wordField w lo = d := by
  apply Fin.ext; simp [wordField, h, Fin.ofNat, Nat.mod_eq_of_lt d.isLt]

/-- The fields of a word of format R or I. -/
theorem encodeR_fields (op : Nat) (d : Fin 4) (a b : Nat) (ho : op < 16) (ha : a < 16) (hb : b < 16) :
    bitField (encodeR op d a b) 15 12 = op ∧ wordField (encodeR op d a b) 10 = d ∧
      bitField (encodeR op d a b) 9 6 = a ∧ bitField (encodeR op d a b) 5 2 = b ∧
      bitField (encodeR op d a b) 1 0 = 0 := by
  have hd := d.isLt
  have hn : op * 2 ^ 12 + d.val * 2 ^ 10 + a * 2 ^ 6 + b * 2 ^ 2 < 2 ^ 16 := by omega
  refine ⟨?_, wordField_eq ?_, ?_, ?_, ?_⟩ <;> rw [encodeR, bitField_ofNat hn] <;>
    simp only [Nat.reducePow, Nat.reduceAdd, Nat.reduceSub] <;> omega

/-- The fields of a word of format S. -/
theorem encodeS_fields (op : Nat) (d : Fin 4) (a amt : Nat) (ho : op < 16) (ha : a < 16)
    (ht : amt < 32) :
    bitField (encodeS op d a amt) 15 12 = op ∧ wordField (encodeS op d a amt) 10 = d ∧
      bitField (encodeS op d a amt) 9 6 = a ∧ bitField (encodeS op d a amt) 5 5 = 0 ∧
      bitField (encodeS op d a amt) 4 0 = amt := by
  have hd := d.isLt
  have hn : op * 2 ^ 12 + d.val * 2 ^ 10 + a * 2 ^ 6 + amt < 2 ^ 16 := by omega
  refine ⟨?_, wordField_eq ?_, ?_, ?_, ?_⟩ <;> rw [encodeS, bitField_ofNat hn] <;>
    simp only [Nat.reducePow, Nat.reduceAdd, Nat.reduceSub] <;> omega

/-- The fields of a word of format M. -/
theorem encodeM_fields (op : Nat) (ma mb : Fin 4) (amt : Nat) (ho : op < 16) (ht : amt < 32) :
    bitField (encodeM op ma mb amt) 15 12 = op ∧ wordField (encodeM op ma mb amt) 10 = ma ∧
      wordField (encodeM op ma mb amt) 8 = mb ∧ bitField (encodeM op ma mb amt) 7 5 = 0 ∧
      bitField (encodeM op ma mb amt) 4 0 = amt := by
  have ha := ma.isLt
  have hb := mb.isLt
  have hn : op * 2 ^ 12 + ma.val * 2 ^ 10 + mb.val * 2 ^ 8 + amt < 2 ^ 16 := by omega
  refine ⟨?_, wordField_eq ?_, wordField_eq ?_, ?_, ?_⟩ <;> rw [encodeM, bitField_ofNat hn] <;>
    simp only [Nat.reducePow, Nat.reduceAdd, Nat.reduceSub] <;> omega

/-- The fields of a word of format N. -/
theorem encodeN_fields (op k : Nat) (ho : op < 16) (hk : k < 32) :
    bitField (encodeN op k) 15 12 = op ∧ bitField (encodeN op k) 11 5 = 0 ∧
      bitField (encodeN op k) 4 0 = k := by
  have hn : op * 2 ^ 12 + k < 2 ^ 16 := by omega
  refine ⟨?_, ?_, ?_⟩ <;> rw [encodeN, bitField_ofNat hn] <;>
    simp only [Nat.reducePow, Nat.reduceAdd, Nat.reduceSub] <;> omega

end Sys2Proof
end

