-- ==== Sys2Proof/Laws/Halfword.lean ====
section
/-! SUPPORT. The half-word functions seen as numbers and as 32-bit words: the exact sums and carries, and
the halves of a 32-bit view (40_halfword_arithmetic.md R81 to R90). -/

namespace Sys2Proof.Machine

theorem val_toNat (x : Word32) : x.val.toNat = x.hi.toNat * 2 ^ 16 + x.lo.toNat := by
  have := x.lo.isLt
  simp only [Word32.val, BitVec.toNat_append, Nat.shiftLeft_eq]
  rw [← Nat.shiftLeft_eq, ← Nat.shiftLeft_add_eq_or_of_lt this]

/-- The 32-bit view loses nothing. -/
theorem val_injective {x y : Word32} (h : x.val = y.val) : x = y := by
  have h' := congrArg BitVec.toNat h
  rw [val_toNat, val_toNat] at h'
  have := x.lo.isLt; have := y.lo.isLt
  cases x; cases y
  simp only [Word32.mk.injEq]
  constructor <;> apply BitVec.eq_of_toNat_eq <;> simp only at * <;> omega

theorem add16_sum_toNat (a b : Half) : (add16 a b).sum.toNat = (a.toNat + b.toNat) % 2 ^ 16 := by
  simp [add16]

theorem add16_carry (a b : Half) : (add16 a b).carry = decide (2 ^ 16 ≤ a.toNat + b.toNat) := rfl

theorem adc16_sum_toNat (a b : Half) (c : Bool) :
    (adc16 a b c).sum.toNat = (a.toNat + b.toNat + c.toNat) % 2 ^ 16 := by
  simp [adc16]

theorem add32_lo_toNat (x y : Word32) :
    (add32 x y).lo.toNat = (x.lo.toNat + y.lo.toNat) % 2 ^ 16 := add16_sum_toNat _ _

theorem add32_hi_toNat (x y : Word32) :
    (add32 x y).hi.toNat =
      (x.hi.toNat + y.hi.toNat + (decide (2 ^ 16 ≤ x.lo.toNat + y.lo.toNat)).toNat) % 2 ^ 16 :=
  adc16_sum_toNat _ _ _

theorem xor32_val (x y : Word32) : (xor32 x y).val = x.val ^^^ y.val := by
  apply BitVec.eq_of_getLsbD_eq
  intro i hi
  simp only [xor32, xor16, Word32.val, BitVec.getLsbD_xor, BitVec.getLsbD_append]
  split <;> rfl

@[simp] theorem shl16_in_range {a : Half} {k : Nat} (hk : k ≤ 15) : shl16 a k = a <<< k := by
  apply BitVec.eq_of_toNat_eq
  simp [shl16, hk, Nat.shiftLeft_eq]

@[simp] theorem shr16_in_range {a : Half} {k : Nat} (h1 : 1 ≤ k) (hk : k ≤ 15) : shr16 a k = a >>> k := by
  apply BitVec.eq_of_toNat_eq
  have := a.isLt
  have : a.toNat / 2 ^ k < 2 ^ 16 := lt_of_le_of_lt (Nat.div_le_self _ _) this
  simp only [shr16, h1, hk, and_self, if_true, BitVec.toNat_ofNat, BitVec.toNat_ushiftRight,
    Nat.shiftRight_eq_div_pow, Nat.mod_eq_of_lt this]

theorem lowmask_bit {n i : Nat} (h1 : 1 ≤ n) (hn : n ≤ 15) (hi : i < 16) :
    (lowmask n).getLsbD i = decide (i < n) := by
  simp only [lowmask, h1, hn, and_self, if_true, BitVec.getLsbD_ofNat, hi, decide_true, Bool.true_and]
  rw [Nat.testBit_two_pow_sub_one]

/-- One bit of a new half of a rotation by n in 1..15 (R90). -/
theorem rotlHalf_bit {own other : Half} {n i : Nat} (h1 : 1 ≤ n) (hn : n ≤ 15) (hi : i < 16) :
    (rotlHalf own other n).getLsbD i =
      if i < n then other.getLsbD (16 - n + i) else own.getLsbD (i - n) := by
  have hr : shr16 other (16 - n) = other >>> (16 - n) := shr16_in_range (by omega) (by omega)
  simp only [rotlHalf, or16, and16, shl16_in_range hn, hr, BitVec.getLsbD_or, BitVec.getLsbD_and,
    BitVec.getLsbD_shiftLeft, BitVec.getLsbD_ushiftRight, lowmask_bit h1 hn hi, hi, decide_true,
    Bool.true_and]
  by_cases hin : i < n
  · simp [hin]
  · simp [hin]

end Sys2Proof.Machine
end

