-- ==== Sys2Proof/Laws/PerInstr.lean ====
section
/-! SUPPORT. A statement about every instruction as syntax: the word of a legal operation carries the fixed
bits of its own row of the table (30_encoding.md R70; spec/opcode_table.json match and mask). -/

namespace Sys2Proof.Laws.TableShape

/-- The mask of the operation's row (R70). -/
def rowMask : Instr → OpWord
  | .add32 _ _ _ => 0xF003
  | .addi32 _ _ _ => 0xF003
  | .xor32 _ _ _ => 0xF003
  | .rotl32 _ _ _ => 0xF020
  | .mix _ _ _ => 0xF0E0
  | .inject _ => 0xFFE0
  | .round _ => 0xFFE0
  | .keyid => 0xFFFF
  | .keysched => 0xFFFF
  | .init => 0xFFFF
  | .gen => 0xFFFF
  | .dump _ => 0xFFE0

/-- The match value of the operation's row (R70). -/
def rowMatch : Instr → OpWord
  | .add32 _ _ _ => 0x1000
  | .addi32 _ _ _ => 0x2000
  | .xor32 _ _ _ => 0x3000
  | .rotl32 _ _ _ => 0x4000
  | .mix _ _ _ => 0x5000
  | .inject _ => 0x6000
  | .round _ => 0x7000
  | .keyid => 0x8000
  | .keysched => 0x8001
  | .init => 0x8002
  | .gen => 0x8003
  | .dump _ => 0x9000

/-- The word of the operation, masked as its row says, is its row's match value. -/
def Statement (i : Instr) : Prop := i.WellFormed → encode i &&& rowMask i = rowMatch i

theorem add32 (d : Fin 4) (a b : Nat) : Statement (.add32 d a b) := by
  intro h
  have hab : a ≤ 12 ∧ b ≤ 12 := by
    by_contra c; simp [Instr.WellFormed, Instr.check, c] at h
  have key : ∀ d : Fin 4, ∀ a ≤ 12, ∀ b ≤ 12, encodeR 1 d a b &&& 0xF003#16 = 0x1000#16 := by
    decide +kernel
  exact key d a hab.1 b hab.2

theorem addi32 (d : Fin 4) (a imm : Nat) : Statement (.addi32 d a imm) := by
  intro h
  have hab : a ≤ 12 ∧ imm ≤ 15 := by
    simp only [Instr.WellFormed, Instr.check] at h
    split_ifs at h; omega
  have key : ∀ d : Fin 4, ∀ a ≤ 12, ∀ b ≤ 15, encodeR 2 d a b &&& 0xF003#16 = 0x2000#16 := by
    decide +kernel
  exact key d a hab.1 imm hab.2

theorem xor32 (d : Fin 4) (a b : Nat) : Statement (.xor32 d a b) := by
  intro h
  have hab : a ≤ 12 ∧ b ≤ 12 := by
    by_contra c; simp [Instr.WellFormed, Instr.check, c] at h
  have key : ∀ d : Fin 4, ∀ a ≤ 12, ∀ b ≤ 12, encodeR 3 d a b &&& 0xF003#16 = 0x3000#16 := by
    decide +kernel
  exact key d a hab.1 b hab.2

theorem rotl32 (d : Fin 4) (a amt : Nat) : Statement (.rotl32 d a amt) := by
  intro h
  have hab : a ≤ 12 ∧ amt ≤ 31 := by
    simp only [Instr.WellFormed, Instr.check] at h
    split_ifs at h; omega
  have key : ∀ d : Fin 4, ∀ a ≤ 12, ∀ b ≤ 31, encodeS 4 d a b &&& 0xF020#16 = 0x4000#16 := by
    decide +kernel
  exact key d a hab.1 amt hab.2

theorem mix (ma mb : Fin 4) (amt : Nat) : Statement (.mix ma mb amt) := by
  intro h
  have hamt : amt ≤ 31 := by
    simp only [Instr.WellFormed, Instr.check] at h
    split_ifs at h; assumption
  have key : ∀ ma mb : Fin 4, ∀ b ≤ 31, encodeM 5 ma mb b &&& 0xF0E0#16 = 0x5000#16 := by
    decide +kernel
  exact key ma mb amt hamt

theorem inject (q : Nat) : Statement (.inject q) := by
  intro h
  have hq : q ≤ 5 := by
    simp only [Instr.WellFormed, Instr.check] at h
    split_ifs at h; assumption
  have key : ∀ q ≤ 5, encodeN 6 q &&& 0xFFE0#16 = 0x6000#16 := by decide +kernel
  exact key q hq

theorem round (n : Nat) : Statement (.round n) := by
  intro h
  have hn : n ≤ 19 := by
    simp only [Instr.WellFormed, Instr.check] at h
    split_ifs at h; assumption
  have key : ∀ q ≤ 19, encodeN 7 q &&& 0xFFE0#16 = 0x7000#16 := by decide +kernel
  exact key n hn

theorem keyid : Statement .keyid := fun _ => by decide

theorem keysched : Statement .keysched := fun _ => by decide

theorem init : Statement .init := fun _ => by decide

theorem gen : Statement .gen := fun _ => by decide

theorem dump (h : Nat) : Statement (.dump h) := by
  intro hw
  have hh : h ≤ 25 := by
    simp only [Instr.WellFormed, Instr.check] at hw
    split_ifs at hw; assumption
  have key : ∀ q ≤ 25, encodeN 9 q &&& 0xFFE0#16 = 0x9000#16 := by decide +kernel
  exact key h hh

end Sys2Proof.Laws.TableShape
end

