-- ==== Sys2Proof/Laws/Step.lean ====
section
/-! SUPPORT. What a step can do, said once: an operation of a run, or one action of the host; and what one
action of the host can do to the elements (10_state.md R27; 60_exceptions.md R163). -/

namespace Sys2Proof.Machine

/-- The end of a run changes STATUS alone. -/
theorem State.endRun_eq (s : State) :
    s.endRun = { s with status := if s.status = .running ∧ s.len ≤ s.pc then .done else s.status } := by
  unfold State.endRun; split <;> rfl

/-- What element k is after an operation. -/
theorem exec_getElem {i : Instr} {s t : State} (h : exec i s = .next t) (k : Nat) :
    t.elems[k]? = s.elems[k]?.map (fun e => bodyOf i (e.noteReads s.pc (readsOf i))) := by
  rw [(exec_next h).2]; simp

/-- The word at pc, decoded. -/
theorem fetch_of_word {s : State} {w : OpWord} (h : (s.stream.getD [])[s.pc]? = some w) :
    s.fetch = some (decode w) := by
  simp [State.fetch, h]

/-- A step of a run that answers a next state ran a legal operation, or found pc at the end. -/
theorem stepRun_next {s t : State} (h : stepRun s = .next t) :
    (s.fetch = none ∧ t = s.endRun) ∨
      ∃ i, s.fetch = some (.ok i) ∧ i.WellFormed ∧ t = (s.lockstep (readsOf i) (bodyOf i)).endRun := by
  unfold stepRun at h
  split at h
  · injection h with h; exact .inl ⟨by assumption, h.symm⟩
  · cases h
  · rename_i i hi
    cases he : exec i s with
    | next u =>
      rw [he] at h
      simp only [Host.Outcome.next.injEq] at h
      obtain ⟨hw, rfl⟩ := exec_next he
      exact .inr ⟨i, hi, hw, h.symm⟩
    | fault f => rw [he] at h; cases h
    | refused r => rw [he] at h; cases h

/-- Serving an action is the action on the machine without it, and its reply kept. -/
theorem serve_eq_some {a : HostAction} {rest : List HostAction} {s t : State}
    (h : s.serve a rest = some t) :
    ∃ r u, State.hostAct a { s with pending := rest } = some (r, u) ∧
      t = { u with replies := u.replies ++ [r] } := by
  unfold State.serve at h
  rw [Option.map_eq_some_iff] at h
  obtain ⟨⟨r, u⟩, h₁, h₂⟩ := h
  exact ⟨r, u, h₁, h₂.symm⟩

/-- A step is one of a run or serves the host's next action. -/
theorem step_next {s t : State} (h : step s = .next t) :
    (s.status = .running ∧ stepRun s.answerStatus = .next t) ∨
      (s.status ≠ .running ∧ ∃ a rest r u, s.pending = a :: rest ∧
        State.hostAct a { s with pending := rest } = some (r, u) ∧
        t = { u with replies := u.replies ++ [r] }) := by
  have host : stepHost s = .next t → ∃ a rest r u, s.pending = a :: rest ∧
      State.hostAct a { s with pending := rest } = some (r, u) ∧
      t = { u with replies := u.replies ++ [r] } := by
    intro h
    unfold stepHost at h
    cases hp : s.pending with
    | nil => rw [hp] at h; cases h
    | cons a rest =>
      rw [hp] at h
      simp only at h
      cases hv : s.serve a rest with
      | none => rw [hv] at h; cases h
      | some u =>
        rw [hv] at h
        injection h with h
        subst h
        obtain ⟨r, u, h₁, h₂⟩ := serve_eq_some hv
        exact ⟨a, rest, r, u, rfl, h₁, h₂⟩
  unfold step at h
  by_cases hr : s.status = .running
  · rw [hr] at h; exact .inl ⟨hr, h⟩
  · refine .inr ⟨hr, host ?_⟩
    cases hs : s.status <;> rw [hs] at h <;> first | exact h | exact absurd hs hr

/-! ### The host -/

theorem atRest_iff (s : State) : s.atRest = true ↔ s.status = .idle ∨ s.status = .done := by
  unfold State.atRest; cases s.status <;> simp

/-- The table ROT passes its check (R142, R150). -/
theorem rotTableError_rotTable : rotTableError rotTable = none := by decide

/-- Load takes the stream, or rejects it. -/
theorem takeStream_cases (error : Option Err) (ws : List OpWord) (s : State) :
    (error = none ∧ s.takeStream error ws = { s with stream := some ws, pc := 0, status := .idle }) ∨
      ∃ e, error = some e ∧ s.takeStream error ws = s.reject e := by
  cases error with
  | none => exact .inl ⟨rfl, rfl⟩
  | some e => exact .inr ⟨e, rfl, rfl⟩

/-- Construct makes a grid of new elements, or rejects. -/
theorem construct_cases (rows cols : Nat) (l : ArrayLengths) (ps : List ElementSpec) (s : State) :
    (constructError rows cols l ps = none ∧ s.construct rows cols l ps =
      { s with
        elems := ps.mapIdx (fun k p => newElement (s.draws + k) p)
        rows := rows
        cols := cols
        status := .idle
        mustConstruct := false
        draws := s.draws + ps.length }) ∨
      ∃ e, constructError rows cols l ps = some e ∧ s.construct rows cols l ps = s.reject e := by
  unfold State.construct
  cases constructError rows cols l ps with
  | none => exact .inl ⟨rfl, rfl⟩
  | some e => exact .inr ⟨e, rfl, rfl⟩

/-- No illegal word is found when every word is legal. -/
theorem firstIllegalWord_none {k : Nat} {ws : List OpWord} :
    firstIllegalWord k ws = none ↔ ∀ w ∈ ws, legalWord w = true := by
  induction ws generalizing k with
  | nil => simp [firstIllegalWord]
  | cons w ws ih =>
    unfold firstIllegalWord
    split
    · rename_i hw; simp [ih, hw]
    · rename_i hw; simp [hw]

/-- The first illegal word of a stream is reported with its index. -/
theorem firstIllegalWord_some (b : Nat) {ws : List OpWord} {k : Nat} {w : OpWord} (h : ws[k]? = some w)
    (hw : legalWord w = false) (hj : ∀ j < k, ∀ v, ws[j]? = some v → legalWord v = true) :
    firstIllegalWord b ws = some ⟨.illegalOp, b + k⟩ := by
  induction ws generalizing k b with
  | nil => simp at h
  | cons v ws ih =>
    unfold firstIllegalWord
    cases k with
    | zero =>
      simp only [List.getElem?_cons_zero, Option.some.injEq] at h
      subst h; simp [hw]
    | succ k =>
      rw [if_pos (hj 0 (by omega) v (by simp)), ih (b + 1) (by simpa using h)
        (fun j hj' u hu => hj (j + 1) (by omega) u (by simpa using hu))]
      congr 2; omega

/-- No refused term is found when every term is legal. -/
theorem firstTermError_none {k : Nat} {is : List Instr} :
    firstTermError k is = none ↔ ∀ i ∈ is, i.WellFormed := by
  induction is generalizing k with
  | nil => simp [firstTermError]
  | cons i is ih =>
    unfold firstTermError
    split
    · rename_i hi; simp only [ih, List.mem_cons, forall_eq_or_imp]; exact ⟨fun h => ⟨hi, h⟩, fun h => h.2⟩
    · rename_i hi; simp [Instr.WellFormed, hi]

/-- The first refused term of a stream is reported with its code and index. -/
theorem firstTermError_some (b : Nat) {is : List Instr} {k : Nat} {i : Instr} {e : TermError}
    (h : is[k]? = some i) (hi : i.check = some e)
    (hj : ∀ j < k, ∀ v, is[j]? = some v → v.WellFormed) :
    firstTermError b is = some ⟨termErrorCode e, b + k⟩ := by
  induction is generalizing k b with
  | nil => simp at h
  | cons v is ih =>
    unfold firstTermError
    cases k with
    | zero =>
      simp only [List.getElem?_cons_zero, Option.some.injEq] at h
      subst h; rw [hi]; simp
    | succ k =>
      rw [show v.check = none from hj 0 (by omega) v (by simp)]
      simp only
      rw [ih (b + 1) (by simpa using h)
        (fun j hj' u hu => hj (j + 1) (by omega) u (by simpa using hu))]
      congr 2; omega

/-- What each action of the host can do, by the change it makes (R163). -/
theorem hostAct_cases {a : HostAction} {s t : State} {r : HostReply} (h : s.hostAct a = some (r, t)) :
    t = s ∨
    (a = .reset ∧ s.status ≠ .running ∧ t = s.toReset) ∨
    (∃ rows cols l ps, a = .construct rows cols l ps ∧ s.atRest = true ∧ s.constructed = false ∧
      t = s.construct rows cols l ps) ∨
    (∃ ws, a = .load ws ∧ s.atRest = true ∧ t = s.takeStream (firstIllegalWord 0 ws) ws) ∨
    (∃ is, a = .loadTerms is ∧ s.atRest = true ∧
      t = s.takeStream (firstTermError 0 is) (is.map encode)) ∨
    (∃ row col array j v, a = .hostWrite row col array j v ∧ s.atRest = true ∧
      hostWritable array j = true ∧
      t = { s with
        elems := s.elems.map (fun e => if e.isAt row col then e.hostWrite array j v else e) }) ∨
    (a = .start ∧ s.atRest = true ∧ s.stream.isSome = true ∧ s.mustConstruct = false ∧
      t = ({ s with pc := 0, status := .running } : State).endRun) := by
  unfold State.hostAct at h
  cases a with
  | reset =>
    simp only at h
    split at h
    · cases h
    · rename_i hs
      simp only [Option.some.injEq, Prod.mk.injEq] at h
      exact .inr (.inl ⟨rfl, hs, h.2.symm⟩)
  | construct rows cols l ps =>
    simp only at h
    split at h
    · rename_i hs
      simp only [Option.some.injEq, Prod.mk.injEq] at h
      simp only [Bool.and_eq_true, Bool.not_eq_true'] at hs
      exact .inr (.inr (.inl ⟨rows, cols, l, ps, rfl, hs.1, hs.2, h.2.symm⟩))
    · cases h
  | load ws =>
    simp only at h
    split at h
    · rename_i hs
      simp only [rotTableError_rotTable, Option.none_or, Option.some.injEq, Prod.mk.injEq] at h
      exact .inr (.inr (.inr (.inl ⟨ws, rfl, hs, h.2.symm⟩)))
    · cases h
  | loadTerms is =>
    simp only at h
    split at h
    · rename_i hs
      simp only [rotTableError_rotTable, Option.none_or, Option.some.injEq, Prod.mk.injEq] at h
      exact .inr (.inr (.inr (.inr (.inl ⟨is, rfl, hs, h.2.symm⟩))))
    · cases h
  | hostWrite row col array j v =>
    simp only at h
    split at h
    · rename_i hs
      simp only [Option.some.injEq, Prod.mk.injEq] at h
      simp only [Bool.and_eq_true] at hs
      exact .inr (.inr (.inr (.inr (.inr (.inl
        ⟨row, col, array, j, v, rfl, hs.1.1, hs.1.2, h.2.symm⟩)))))
    · cases h
  | start =>
    simp only at h
    split at h
    · rename_i hs
      simp only [Option.some.injEq, Prod.mk.injEq] at h
      simp only [Bool.and_eq_true, Bool.not_eq_true'] at hs
      exact .inr (.inr (.inr (.inr (.inr (.inr ⟨rfl, hs.1.1, hs.1.2, hs.2, h.2.symm⟩)))))
    · cases h
  | hostRead row col array j =>
    simp only at h
    split at h
    · split at h
      · cases h
      · rw [Option.map_eq_some_iff] at h
        obtain ⟨_, _, h⟩ := h
        simp only [Prod.mk.injEq] at h
        exact .inl h.2.symm
    · cases h
  | readTrace row col =>
    simp only at h
    split at h
    · rw [Option.map_eq_some_iff] at h
      obtain ⟨_, _, h⟩ := h
      simp only [Prod.mk.injEq] at h
      exact .inl h.2.symm
    · cases h
  | readStatus =>
    simp only [Option.some.injEq, Prod.mk.injEq] at h
    exact .inl h.2.symm

/-- A host write keeps the identity, W, TRACE, FAULT and the seed. -/
theorem hostWrite_keeps (array : ArrayName) (j : Nat) (v : Half) (e : Element) :
    (e.hostWrite array j v).row = e.row ∧ (e.hostWrite array j v).col = e.col ∧
      (e.hostWrite array j v).identified = e.identified ∧
      (e.hostWrite array j v).w = e.w ∧ (e.hostWrite array j v).trace = e.trace ∧
      (e.hostWrite array j v).fault = e.fault ∧ (e.hostWrite array j v).seed = e.seed := by
  cases array <;> simp [Element.hostWrite]

end Sys2Proof.Machine
end

