-- ==== Sys2Proof/Tests/Slice0.lean ====
section
/-! SUPPORT. The model's own tests: expected values are the spec's vectors (95_test_vectors.md) and worked
words (30_encoding.md R70), and one witness for every statement that has hypotheses. -/

namespace Sys2Proof.Tests

open Sys2Proof.Machine Sys2Proof.Claims

/-! ### Helpers -/

/-- Entry j of an array that holds these Word32s; no value beyond the list. -/
def entryOf (words : List (BitVec 32)) (j : Nat) : Entry :=
  match words[j / 2]? with
  | some v => ⟨if j % 2 = 0 then (Word32.pair v).hi else (Word32.pair v).lo, true⟩
  | none => Entry.blank

/-- An element with these Wd, Cd, Kd. -/
def el (wd cd kd : List (BitVec 32)) (row col : Half) : Element where
  w := Vector.ofFn (fun j => entryOf wd j)
  ctr := Vector.ofFn (fun j => entryOf cd j)
  ks := Vector.ofFn (fun j => entryOf kd j)
  row := row
  col := col
  identified := true
  trace := []
  fault := none
  seed := 0

/-- A machine of these elements. -/
def mk (es : List Element) : State := { State.reset with elems := es, rows := 1, cols := es.length }

/-- What `f` shows of the first element after an operation. -/
def after {α : Type} (i : Instr) (s : State) (f : Element → α) : Option α :=
  match exec i s with
  | .next t => t.elems.head?.map f
  | _ => none

/-- The four working words in the 32-bit view. -/
def wds (e : Element) : List (BitVec 32) := [(e.wd 0).val, (e.wd 1).val, (e.wd 2).val, (e.wd 3).val]

/-- The outcome is a next state. -/
def isNext (o : Host.Outcome State Fault Refusal) : Bool :=
  match o with
  | .next _ => true
  | _ => false

/-- The outcome is this fault. -/
def isFault (f : Fault) (o : Host.Outcome State Fault Refusal) : Bool :=
  match o with
  | .fault g => g == f
  | _ => false

/-- The start state of V30. -/
def v30 : State := mk [el [0x11111111, 0x80000001, 0xFFFFFFFF, 0x7FFFFFFF]
  [0x0000FFFF, 0x00000001, 0x00000002, 0xFFFF0000]
  [0x00000001, 0xFFFFFFFF, 0x00010000, 0x12345678, 0x00000000] 0 0]

/-- The working words of V40 and V41, the keys of V44. -/
def v41 : State := mk [el [0x01234567, 0x89ABCDEF, 0xFEDCBA98, 0x76543210] [0, 0, 0, 1]
  [0x11111111, 0x22222222, 0x33333333, 0x44444444, 0x55555555] 2 5]

/-- The counter and key of V50, W and Kd[4] without a value. -/
def v50 : State := mk [el [] [0, 0, 0, 1] [0, 0, 0, 0x00010001] 0 0]

/-! ### Well-formedness: each check refuses an ill-formed term -/

theorem test_check_slot : (Instr.add32 0 13 0).check = some .illegalOp := by decide
theorem test_check_slot_b : (Instr.xor32 0 0 13).check = some .illegalOp := by decide
theorem test_check_addi_slot : (Instr.addi32 0 13 65536).check = some .illegalOp := by decide
theorem test_check_immediate : (Instr.addi32 0 0 16).check = some .illegalOp := by decide
theorem test_check_immediate_scalar : (Instr.addi32 0 0 65536).check = some .scalar := by decide
/-- V90: `ROTL32 W0, W0, 32`. -/
theorem test_check_amount : (Instr.rotl32 0 0 32).check = some .rotAmount := by decide
theorem test_check_rotl_slot : (Instr.rotl32 0 13 32).check = some .illegalOp := by decide
theorem test_check_mix_equal : (Instr.mix 1 1 0).check = some .illegalOp := by decide
theorem test_check_mix_amount : (Instr.mix 0 1 32).check = some .rotAmount := by decide
theorem test_check_inject : (Instr.inject 6).check = some .illegalOp := by decide
/-- V90: an injection with scalar 65536. -/
theorem test_check_scalar : (Instr.inject 65536).check = some .scalar := by decide
theorem test_check_round : (Instr.round 20).check = some .illegalOp := by decide
theorem test_check_dump : (Instr.dump 26).check = some .illegalOp := by decide

/-! ### Decoding: words written out from R62 and R70, and the reserved words of V81 -/

/-- 0001 00 1100 1100 00: largest source numbers (V80). -/
theorem test_decode_add32_largest : decode 0b0001001100110000#16 = .ok (.add32 0 12 12) := by decide
/-- 0010 11 1100 1111 00: largest fields (V80). -/
theorem test_decode_addi32_largest : decode 0b0010111100111100#16 = .ok (.addi32 3 12 15) := by decide
/-- 0101 11 10 000 11111 (V80). -/
theorem test_decode_mix_largest : decode 0b0101111000011111#16 = .ok (.mix 3 2 31) := by decide
theorem test_reserved_opcodes :
    decode 0x0000#16 = .error .opcode ∧ decode 0xFFFF#16 = .error .opcode ∧
    decode 0xA000#16 = .error .opcode := by decide
theorem test_reserved_zero_fields :
    decode 0x1121#16 = .error .mustBeZero ∧ decode 0x2341#16 = .error .mustBeZero ∧
    decode 0x4020#16 = .error .mustBeZero ∧ decode 0x5120#16 = .error .mustBeZero ∧
    decode 0x7800#16 = .error .mustBeZero ∧ decode 0x8010#16 = .error .mustBeZero := by decide
theorem test_reserved_slots :
    decode 0x1360#16 = .error .sourceSlot ∧ decode 0x1034#16 = .error .sourceSlot ∧
    decode 0x2340#16 = .error .sourceSlot ∧ decode 0x4340#16 = .error .sourceSlot := by decide
theorem test_reserved_mix : decode 0x5500#16 = .error .mixEqual := by decide
theorem test_reserved_ranges :
    decode 0x6006#16 = .error .range ∧ decode 0x7014#16 = .error .range ∧
    decode 0x901A#16 = .error .range ∧ decode 0x8004#16 = .error .sub := by decide
theorem test_encode_words :
    encode (.mix 2 1 21) = 0x5915#16 ∧ encode (.rotl32 2 7 31) = 0x49DF#16 ∧
    encode (.addi32 3 3 5) = 0x2CD4#16 := by decide
theorem test_assemble_mov32_dump32 :
    assemble [(.MOV32, [.slot (.w 1), .slot (.k 3)]), (.DUMP32, [.slot (.w 0)])] =
      some [0x26C0#16, 0x9000#16, 0x9001#16] := by decide

/-- Two lines of R74's syntax, with a comment and a hexadecimal number (words of V30 and V40). -/
theorem test_assemble_text :
    assembleText "MOV32 W1, K3 ; copy\n\nMIX W2, W3, 0x1A".toList = some [0x26C0#16, 0x5B1A#16] ∧
    assembleText "DUMP K4.L\nDUMP 15".toList = some [0x9019#16, 0x900F#16] ∧
    assembleText "ROTL32 W0, W0, 32".toList = none := by decide

/-! ### Operations: the spec's vectors -/

/-- V30: carry into the high half. -/
theorem test_add32_carry : after (.add32 0 4 8) v30 wds =
    some [0x00010000, 0x80000001, 0xFFFFFFFF, 0x7FFFFFFF] := by decide
/-- V30: destination and both sources the same. -/
theorem test_add32_alias : after (.add32 3 3 3) v30 (fun e => (e.wd 3).val) = some 0xFFFFFFFE := by
  decide
/-- V30. -/
theorem test_addi32_carry : after (.addi32 0 4 1) v30 (fun e => (e.wd 0).val) = some 0x00010000 := by
  decide
theorem test_addi32_largest : after (.addi32 2 2 15) v30 (fun e => (e.wd 2).val) = some 0x0000000E := by
  decide
/-- V30. -/
theorem test_xor32 : after (.xor32 0 11 9) v30 (fun e => (e.wd 0).val) = some 0xEDCBA987 := by
  decide
/-- V30: amounts on both sides of 16. -/
theorem test_rotl32_31 : after (.rotl32 2 7 31) v30 (fun e => (e.wd 2).val) = some 0x7FFF8000 := by
  decide
theorem test_rotl32_10 : after (.rotl32 1 1 10) v30 (fun e => (e.wd 1).val) = some 0x00000600 := by
  decide
/-- V40. -/
theorem test_mix : after (.mix 2 1 21) v41 wds =
    some [0x01234567, 0x3579BDFE, 0x88888887, 0x76543210] := by decide
theorem test_mix_31 : after (.mix 1 0 31) v41 wds =
    some [0x0A5EB1E5, 0x8ACF1356, 0xFEDCBA98, 0x76543210] := by decide
/-- V41: an even and an odd round, the latter beyond the end of the table. -/
theorem test_round_2 : after (.round 2) v41 wds =
    some [0x8ACF1356, 0xF372E263, 0x7530ECA8, 0xF6824D38] := by decide
theorem test_round_19 : after (.round 19) v41 wds =
    some [0x77777777, 0xBDF13576, 0x88888887, 0x7F4C5D6E] := by decide
/-- V42: element (2, 5). -/
theorem test_keyid : after .keyid v41 (fun e => ((e.kd 2).val, (e.kd 3).val, (e.kd 4).val)) =
    some (0, 0x00030006, 0x55555555) := by decide
/-- V43: key of V1. -/
theorem test_keysched : after .keysched v50 (fun e => (e.kd 4).val) = some 0x1BD01BDB := by
  decide
/-- V44. -/
theorem test_inject_2 : after (.inject 2) v41 wds =
    some [0x3456789A, 0xCDF01233, 0x54320FED, 0x87654323] := by decide
theorem test_inject_5 : after (.inject 5) v41 wds =
    some [0x12345678, 0xABCDF011, 0x320FEDCB, 0xBA987659] := by decide
/-- V45, with W and Kd[4] without a value before. -/
theorem test_init : after .init v50 (fun e => (wds e, (e.kd 4).val, e.fault)) =
    some ([0, 0, 0, 0x00010002], 0x1BD01BDB, none) := by decide
/-- V50. -/
theorem test_gen : after .gen v50 wds =
    some [0x39C8D6F9, 0xB48F659A, 0xFEDF25BD, 0xE347D3B7] := by decide +kernel
/-- V62. -/
theorem test_gen_pi : after .gen
    (mk [el [] [0x243F6A88, 0x85A308D3, 0x13198A2E, 0x03707344]
      [0xA4093822, 0x299F31D0, 0x082EFA98, 0xEC4E6C89] 0 0]) wds =
    some [0x59CD1DBB, 0xB8879579, 0x86B5D00C, 0xAC8B6D84] := by decide +kernel
/-- V70: C3.L, and K3.H at flat index 22. -/
theorem test_dump : after (.dump 15) v50 Element.trace = some [(15, 1)] := by decide
theorem test_dump_key : after (.dump 22) v50 Element.trace = some [(22, 1)] := by decide
/-- V93: GEN on an element without a value reads KS[0] first. -/
theorem test_uninit_gen : after .gen (mk [el [] [] [] 0 0]) Element.fault = some (some ⟨16, 0⟩) := by
  decide
/-- V93: the third operation of its fifth line. -/
theorem test_uninit_slot : after (.add32 0 0 1) { mk [el [0] [0, 0, 0, 0] [0, 0, 0, 0x00010001] 0 0] with
    pc := 2 } Element.fault = some (some ⟨2, 2⟩) := by decide

/-! ### Steps -/

/-- The word of GEN placed at reset is fetched and run. -/
theorem test_fetch_from_reset :
    isNext (step (State.reset.withFetchWord 16 0x8003)) = true ∧
    isFault (.illegalWord 0) (step (State.reset.withFetchWord 16 0x0000)) = true := by decide

/-- Before Construct the element of the reset state has no values but can be read and written (R163, U13). -/
theorem test_host_before_construct :
    (State.reset.hostAct (.hostRead 0 0 .w 0)).map Prod.fst = some (.entry none) ∧
    (State.reset.hostAct (.readTrace 0 0)).map Prod.fst = some (.trace []) ∧
    ((State.reset.hostAct (.hostWrite 0 0 .ctr 7 5)).bind
      (fun r => r.2.hostAct (.hostRead 0 0 .ctr 7))).map Prod.fst = some (.entry (some 5)) := by decide

/-- GEN run before anything was written ends with a FAULT, so in no final state (R35, R160). -/
theorem test_run_before_construct :
    (match step (State.reset.withFetchWord 16 0x8003) with
      | .next t => t.status == .done && t.elems.map Element.fault == [some ⟨16, 0⟩]
      | _ => false) = true := by decide

/-- Reset clears an element and keeps it. -/
theorem test_reset_clears :
    (v30.hostAct .reset).map (fun r => r.2.elems.map
      (fun e => ((e.entry 0).written, (e.entry 25).written, e.identified, e.fault))) =
      some [(false, false, false, none)] := by decide

/-- A ReadStatus asked for during a run is answered with RUNNING, 1, and the operation is issued. -/
theorem test_read_status_in_run :
    (match step { v50 with status := .running, stream := some [0x8001, 0x8003], pending := [.readStatus] } with
      | .next t => t.replies == [.status 1 0 0] && t.pending.isEmpty && t.pc == 1
      | _ => false) = true := by decide

/-- The machine of P6's rejected stream, and V90's. -/
theorem test_load_illegal :
    ((mk []).hostAct (.load [0x8000, 0x7014, 0x0000])).map (fun r => (r.2.status, r.2.err)) =
      some (.rejected, ⟨.illegalOp, 1⟩) := by decide

/-- V90: the grid is checked before the lengths. -/
theorem test_construct_order :
    (State.reset.hostAct (.construct 0 4 ⟨8, 8, 8⟩ [])).map (fun r => (r.2.status, r.2.err)) =
      some (.rejected, ⟨.grid, 0⟩) := by decide

/-! ### Witnesses: for every statement with hypotheses, data that meet them -/

theorem witness_DecodeOfEncode : (Instr.dump 25).WellFormed ∧ (Instr.mix 3 2 31).WellFormed := by decide
theorem witness_EncodeOfDecode : decode 0x1330#16 = .ok (.add32 0 12 12) := by decide

theorem reserved_5500 : Reserved 0x5500#16 := by unfold Reserved; decide
theorem legal_8000 : ¬ Reserved 0x8000#16 := by unfold Reserved; decide

theorem witness_ReservedWordsAreIllegal :
    State.reset.status = .idle ∧ ∃ w ∈ [0x8000#16, 0x5500#16], Reserved w :=
  ⟨rfl, 0x5500#16, by decide, reserved_5500⟩

/-- One word of each clause (a) to (f) of R71, at the edge of its range. -/
theorem witness_reserved_clauses :
    Reserved 0xA000#16 ∧ Reserved 0x4020#16 ∧ Reserved 0x1034#16 ∧ Reserved 0x5F00#16 ∧
    Reserved 0x901A#16 ∧ Reserved 0x8004#16 := by
  refine ⟨?_, ?_, ?_, ?_, ?_, ?_⟩ <;> (unfold Reserved; decide)

theorem witness_AssemblerReadsItsOwnLines :
    (Instr.add32 3 12 0).WellFormed ∧ assembleLine (lineOf (.add32 3 12 0)).1 (lineOf (.add32 3 12 0)).2 =
      some [.add32 3 12 0] := by decide

/-- Amounts of every case of R90, at the edges. -/
theorem witness_Rotl32IsLeftRotation :
    (rotl32 ⟨0x1234, 0x5678⟩ 0, rotl32 ⟨0x1234, 0x5678⟩ 1, rotl32 ⟨0x1234, 0x5678⟩ 15,
      rotl32 ⟨0x1234, 0x5678⟩ 16, rotl32 ⟨0x1234, 0x5678⟩ 31) =
    (⟨0x1234, 0x5678⟩, ⟨0x2468, 0xACF0⟩, ⟨0x2B3C, 0x091A⟩, ⟨0x5678, 0x1234⟩, ⟨0x091A, 0x2B3C⟩) := by
  decide

theorem witness_RotationLaws :
    rotl32 (rotl32 ⟨0xDEAD, 0xBEEF⟩ 5) 27 = ⟨0xDEAD, 0xBEEF⟩ ∧
    rotl32 (rotl32 ⟨0xDEAD, 0xBEEF⟩ 31) 31 = rotl32 ⟨0xDEAD, 0xBEEF⟩ 30 := by decide

theorem witness_Add32Effect : (12 : Nat) ≤ 12 ∧ isNext (exec (.add32 3 12 12) v30) = true := by
  decide
theorem witness_Addi32Effect :
    (12 : Nat) ≤ 12 ∧ (15 : Nat) ≤ 15 ∧ isNext (exec (.addi32 3 12 15) v30) = true := by decide
theorem witness_Xor32Effect : (12 : Nat) ≤ 12 ∧ isNext (exec (.xor32 0 12 0) v30) = true := by
  decide
theorem witness_Rotl32Effect :
    isNext (exec (.rotl32 0 12 31) v30) = true ∧
    isFault (.illegalTerm .rotAmount) (exec (.rotl32 0 12 32) v30) = true := by decide
theorem witness_MixEffect :
    (3 : Fin 4) ≠ 2 ∧ isNext (exec (.mix 3 2 31) v30) = true ∧
    isFault (.illegalTerm .illegalOp) (exec (.mix 3 3 32) v30) = true ∧
    isFault (.illegalTerm .rotAmount) (exec (.mix 3 2 32) v30) = true := by decide
theorem witness_RoundEffect :
    18 % 2 = 0 ∧ isNext (exec (.round 18) v30) = true ∧ 19 % 2 = 1 ∧
    isNext (exec (.round 19) v30) = true ∧
    isFault (.illegalTerm .illegalOp) (exec (.round 20) v30) = true := by decide
theorem witness_InjectEffect :
    isNext (exec (.inject 0) v30) = true ∧ isNext (exec (.inject 5) v30) = true ∧
    isFault (.illegalTerm .illegalOp) (exec (.inject 6) v30) = true ∧
    isFault (.illegalTerm .illegalOp) (exec (.inject 65535) v30) = true := by decide
theorem witness_DumpEffect :
    isNext (exec (.dump 0) v30) = true ∧ isNext (exec (.dump 25) v30) = true := by decide

/-- The counter and the key of GenKnownAnswer. -/
theorem witness_GenKnownAnswer :
    v50.elems[0]?.map (fun e => [e.cd 0, e.cd 1, e.cd 2, e.cd 3, e.kd 0, e.kd 1, e.kd 2, e.kd 3]) =
      some [⟨0, 0⟩, ⟨0, 0⟩, ⟨0, 0⟩, ⟨0, 1⟩, ⟨0, 0⟩, ⟨0, 0⟩, ⟨0, 0⟩, ⟨1, 1⟩] := by decide

theorem witness_PseudoInstructions :
    slotNumber (.k 4) = 12 ∧ after (.addi32 1 11 0) v30 (fun e => (e.wd 1).val) = some 0x12345678 := by
  decide
theorem witness_RefusedTermsNeverExecute : (Instr.dump 26).check = some .illegalOp := by decide
theorem witness_MixIsAddRotateXor : (0 : Fin 4) ≠ 1 ∧ (31 : Nat) ≤ 31 := by decide
theorem witness_RoundIsTwoMixes : (0 % 2 = 0 ∧ 0 ≤ 19) ∧ 19 % 2 = 1 ∧ 19 ≤ 19 := by decide
theorem witness_InjectIsFiveAdditions : (5 : Nat) ≤ 5 := by decide
theorem witness_RoundsRepeatWithPeriodEight :
    (11 : Nat) ≤ 11 ∧ after (.round 19) v41 wds = after (.round 11) v41 wds := by decide
theorem witness_MixIsInvertible : (3 : Fin 4) ≠ 0 ∧ (0 : Nat) ≤ 31 := by decide

/-- The same counter and key, in two elements whose W and Kd[4] differ. -/
def v50b : State := mk [el [1, 2, 3, 4] [0, 0, 0, 1] [0, 0, 0, 0x00010001, 7] 9 9]

theorem witness_GenIsAFunctionOfCounterAndKey :
    isNext (exec .gen v50) = true ∧ isNext (exec .gen v50b) = true ∧ v50.elems ≠ v50b.elems ∧
    (v50.elems.map (fun e => (List.range 16).map (fun j => e.half (8 + j)))) =
      v50b.elems.map (fun e => (List.range 16).map (fun j => e.half (8 + j))) := by decide

theorem witness_DumpsDoNotFeedBack :
    isNext (execAll [.keyid, .dump 22, .init, .dump 0, .round 0] v50) = true := by decide

theorem witness_WritersOfEachState :
    isNext (exec .keyid v30) = true ∧ isNext (exec .gen v30) = true ∧
    isNext (exec (.dump 0) v30) = true := by decide

/-- An element at index 0 of one machine and at index 1 of another. -/
theorem witness_ElementsAreIsolated :
    isNext (exec (.add32 0 0 1) v50) = true ∧
    isNext (exec (.add32 0 0 1) (mk (v30.elems ++ v50.elems))) = true ∧
    v50.pc = (mk (v30.elems ++ v50.elems)).pc ∧
    v50.elems[0]? = (mk (v30.elems ++ v50.elems)).elems[1]? ∧ v50.elems[0]?.isSome = true := by
  decide

/-- GEN on an element whose W holds no value ends without FAULT, whatever the seed. -/
theorem witness_FaultFreeResultsUseNoFreeValue :
    after .gen v50 Element.fault = some none ∧
    after .gen { v50 with elems := v50.elems.map (fun e => { e with seed := 5 }) } Element.fault =
      some none := by decide

/-! A run in progress on the 1 x 1 grid, with one word to go. -/

/-- A constructed machine about to issue KEYID, its only word. -/
def running : State := { State.reset with
  elems := [newElement 0 ⟨0, 0, none, none⟩]
  stream := some [0x8000]
  status := .running }

theorem running_inv : running.Inv where
  streamLegal := List.all_eq_true.1 (by decide)
  pcBound := by decide
  running := by decide
  ended := by decide
  errAgrees := by decide
  gridSize := by decide
  insideGrid := by decide
  identities := by decide
  together := .inl (List.all_eq_true.1 (by decide))
  awaiting := by decide
  seedsFresh := by decide
  seedsDistinct := by decide

theorem witness_KeyidGivesDistinctKeys :
    running.Inv ∧ running.constructed = true ∧ isNext (exec .keyid running) = true :=
  ⟨running_inv, rfl, by decide⟩
theorem witness_StepRunsTheDecodedOperation :
    running.status = .running ∧ (running.stream.getD [])[running.pc]? = some 0x8000#16 ∧
    decode 0x8000#16 = .ok .keyid := ⟨rfl, rfl, by decide⟩
theorem witness_ReservedWordIsStuck :
    (State.reset.withFetchWord 16 0x5500).status = .running ∧
    ((State.reset.withFetchWord 16 0x5500).stream.getD [])[(0 : Nat)]? = some 0x5500#16 ∧
    Reserved 0x5500#16 := ⟨rfl, rfl, reserved_5500⟩
/-- No action, one that R163 allows, and one that it does not. -/
theorem witness_StepAtRestServesTheHost :
    State.reset.status ≠ .running ∧ State.reset.pending = [] ∧
    isNext (step { State.reset with pending := [.load [0x8000], .start] }) = true ∧
    isFault .hostActionNotAllowed (step { State.reset with pending := [.start] }) = true := by decide
theorem witness_StepKeepsInvariant : running.Inv ∧ isNext (step running) = true :=
  ⟨running_inv, by decide⟩
theorem witness_RunsNeverFault : running.Inv ∧ running.status = .running := ⟨running_inv, rfl⟩
theorem witness_RunsEndAfterLenSteps :
    running.Inv ∧ running.status = .running ∧ 0 < running.len - running.pc :=
  ⟨running_inv, rfl, by decide⟩
/-- A step of a run, and one for each of the two actions that the rule leaves out. -/
theorem witness_IdentityTraceAndFaultPersist :
    isNext (step running) = true ∧ running.elems ≠ [] ∧
    isNext (step { running with status := .done, pending := [.reset] }) = true ∧
    isNext (step { State.reset with pending := [.construct 1 1 ⟨8, 8, 10⟩ [⟨0, 0, none, none⟩]] }) =
      true := by decide
theorem witness_MixedWidths : (3 : Nat) < 4 ∧ (4 : Nat) < 5 := by decide

/-! The host. -/

/-- Identities of the 2 x 2 grid of V90. -/
def ids22 : List ElementSpec :=
  [⟨0, 0, none, none⟩, ⟨0, 1, none, none⟩, ⟨1, 0, none, none⟩, ⟨1, 1, none, none⟩]

/-- A DONE machine, a REJECTED one, and one with actions pending. -/
def done : State := { running with status := .done, pc := 1 }
def rejected : State := { State.reset with status := .rejected, err := ⟨.grid, 0⟩ }

theorem witness_ResetEffect :
    running.hostAct .reset = none ∧ rejected.status ≠ .running ∧
    (rejected.hostAct .reset).isSome = true := by decide

/-- A grid for each clause of R148: no rows, no columns, too many of each, an identity outside, two equal. -/
theorem witness_ConstructRejectsBadGrids :
    State.reset.status = .idle ∧ State.reset.constructed = false ∧
    gridOk 0 4 [] = false ∧ gridOk 4 0 [] = false ∧ gridOk 65536 1 [] = false ∧ gridOk 1 65536 [] = false ∧
    gridOk 2 2 [⟨0, 0, none, none⟩, ⟨0, 1, none, none⟩, ⟨1, 0, none, none⟩, ⟨2, 1, none, none⟩] = false ∧
    gridOk 2 2 [⟨0, 0, none, none⟩, ⟨0, 1, none, none⟩, ⟨1, 0, none, none⟩, ⟨1, 0, none, none⟩] = false := by
  decide

/-- A good grid, and for each array a wrong length or a wrong image. -/
theorem witness_ConstructRejectsBadLengths :
    gridOk 2 2 ids22 = true ∧
    gridOk 1 1 [⟨0, 0, some [], none⟩] = true ∧ gridOk 1 1 [⟨0, 0, none, some []⟩] = true ∧
    (State.reset.hostAct (.construct 2 2 ⟨10, 8, 8⟩ ids22)).map (fun r => r.2.err) =
      some ⟨.arrayLength, 0⟩ ∧
    (State.reset.hostAct (.construct 1 1 ⟨8, 8, 10⟩ [⟨0, 0, some [], none⟩])).map (fun r => r.2.err) =
      some ⟨.arrayLength, 1⟩ ∧
    (State.reset.hostAct (.construct 1 1 ⟨8, 8, 10⟩ [⟨0, 0, none, some []⟩])).map (fun r => r.2.err) =
      some ⟨.arrayLength, 2⟩ := by decide

/-- A DONE machine that nothing has constructed: Load and Start of an empty stream came first (log 13). -/
def doneBlank : State := { State.reset with stream := some [], status := .done }

/-- One element with both images and one without, on a DONE machine; and the three states without Construct. -/
theorem witness_ConstructMakesTheGridOnce :
    doneBlank.status = .done ∧ doneBlank.constructed = false ∧ gridOk 2 2 ids22 = true ∧
    gridOk 1 2 [⟨0, 0, some [1, 2, 3, 4, 5, 6, 7, 8], some [0, 0, 0, 0, 0, 0, 1, 1]⟩, ⟨0, 1, none, none⟩] = true ∧
    (doneBlank.hostAct (.construct 1 2 ⟨8, 8, 10⟩
        [⟨0, 0, some [1, 2, 3, 4, 5, 6, 7, 8], some [0, 0, 0, 0, 0, 0, 1, 1]⟩, ⟨0, 1, none, none⟩])).map
      (fun r => r.2.elems.map (fun e => (e.entry 15, e.entry 23, (e.entry 24).written))) =
      some [(⟨8, true⟩, ⟨1, true⟩, false), (Entry.blank, Entry.blank, false)] ∧
    running.status = .running ∧ rejected.status = .rejected ∧ done.constructed = true := by decide

theorem witness_LoadTakesOnlyLegalStreams :
    done.status = .done ∧ (∀ w ∈ [0x8000#16], ¬ Reserved w) ∧
    ([0x8000#16, 0x5500#16][1]? = some 0x5500#16 ∧ Reserved 0x5500#16 ∧
      ∀ j < 1, ∀ v, [0x8000#16, 0x5500#16][j]? = some v → ¬ Reserved v) := by
  refine ⟨rfl, ?_, rfl, reserved_5500, ?_⟩
  · intro w hw
    rw [List.mem_singleton] at hw
    exact hw ▸ legal_8000
  · intro j hj v hv
    have : j = 0 := by omega
    subst this
    simp only [List.getElem?_cons_zero, Option.some.injEq] at hv
    exact hv ▸ legal_8000

/-- A stream for each clause, its refused term at index 0 or 1. -/
theorem witness_LoadRejectsBadTerms :
    (∀ i ∈ [Instr.keyid, .gen], i.WellFormed) ∧
    (done.hostAct (.loadTerms [.rotl32 0 12 32])).map (fun r => r.2.err) = some ⟨.rotAmount, 0⟩ ∧
    (done.hostAct (.loadTerms [.keyid, .mix 0 1 32])).map (fun r => r.2.err) = some ⟨.rotAmount, 1⟩ ∧
    (done.hostAct (.loadTerms [.keyid, .mix 1 1 32])).map (fun r => r.2.err) = some ⟨.illegalOp, 1⟩ ∧
    (done.hostAct (.loadTerms [.inject 65536])).map (fun r => r.2.err) = some ⟨.scalar, 0⟩ ∧
    (done.hostAct (.loadTerms [.keyid, .addi32 0 12 65536])).map (fun r => r.2.err) = some ⟨.scalar, 1⟩ := by
  decide

theorem witness_RejectionChangesErrAndStatusOnly :
    State.reset.status ≠ .rejected ∧
    (State.reset.hostAct (.load [0x0000])).map (fun r => r.2.status) = some .rejected := by decide

theorem witness_StartBeginsARun :
    done.status = .done ∧ done.mustConstruct = false ∧ done.stream = some [0x8000#16] ∧
    State.reset.stream = none ∧ (rejected.toReset).mustConstruct = true ∧
    (({ done with stream := some [] } : State).hostAct .start).map (fun r => r.2.status) = some .done := by
  decide

theorem witness_HostWriteThenRead :
    done.status = .done ∧ (7 : Nat) < 8 ∧ ∃ e ∈ done.elems, e.row = 0 ∧ e.col = 0 :=
  ⟨rfl, by decide, newElement 0 ⟨0, 0, none, none⟩, by decide, rfl, rfl⟩

theorem witness_HostNeverWritesWorkingOrParity :
    (8 : Nat) ≤ 8 ∧ done.hostAct (.hostWrite 0 0 .ks 8 0) = none ∧
    (done.hostAct (.hostWrite 0 0 .ks 7 0)).isSome = true := by decide

theorem witness_HostCannotActOnARun :
    running.status = .running ∧ HostAction.start ≠ .readStatus := by decide

/-- P6's way out of REJECTED: after Reset alone Load is taken but Start has no step; after a Construct it has. -/
theorem test_recovery_by_construct :
    (rejected.toReset.hostAct (.load [0x8000])).isSome = true ∧
    ((rejected.toReset.hostAct (.load [0x8000])).bind (fun r => r.2.hostAct .start)).isNone = true ∧
    ((rejected.toReset.hostAct (.construct 2 2 ⟨8, 8, 10⟩ ids22)).bind
      (fun r => (r.2.hostAct (.load [0x8000])).bind (fun q => q.2.hostAct .start))).map (fun r => r.2.status) =
      some .running := by decide

/-- A rejected machine, the same one reset, and each of the steps the statement tells apart. -/
theorem witness_RejectedUntilConstructedAgain :
    rejected.status = .rejected ∧ AwaitsConstruct rejected ∧ AwaitsConstruct rejected.toReset ∧
    rejected.toReset.status ≠ .running ∧
    isNext (step { rejected with pending := [.reset] }) = true ∧
    isNext (step { rejected with pending := [.readStatus] }) = true ∧
    isFault .hostActionNotAllowed (step { rejected with pending := [.start] }) = true ∧
    isNext (step { rejected.toReset with pending := [.load [0x8000]] }) = true ∧
    isNext (step { rejected.toReset with pending := [.construct 2 2 ⟨8, 8, 10⟩ ids22] }) = true := by
  unfold AwaitsConstruct; decide

/-- A run in progress with a ReadStatus pending. -/
theorem witness_StatusIsReadAtAnyTime :
    ({ running with pending := [.readStatus, .reset] } : State).Inv ∧
    ({ running with pending := [.readStatus, .reset] } : State).status = .running :=
  ⟨{ running_inv with }, rfl⟩

theorem witness_HostReads :
    done.status = .done ∧ (done.elems.map (fun e => (e.row, e.col))).Nodup ∧ done.elems ≠ [] := by decide

end Sys2Proof.Tests
end

section
/-! PROOF. An operation that reads written entries alone does not depend on the seed, which names the
contents of the unwritten ones (10_state.md R35, U1; log 1, log 5). -/

namespace Sys2Proof.Machine

/-! ### Reads of written entries -/

/-- Every entry of the list has been written. -/
def AllWritten (e : Element) (reads : List Nat) : Prop := ∀ h ∈ reads, (e.entry h).written = true

/-- Every entry written in `e` is written in `e'`. -/
def KeepsWritten (e e' : Element) : Prop :=
  ∀ h, (e.entry h).written = true → (e'.entry h).written = true

theorem AllWritten.mono {e e' : Element} {reads : List Nat} (h : AllWritten e reads)
    (hk : KeepsWritten e e') : AllWritten e' reads := fun k hm => hk k (h k hm)

theorem AllWritten.subset {e : Element} {hs ks : List Nat} (h : AllWritten e hs) (hsub : ks ⊆ hs) :
    AllWritten e ks := fun k hm => h k (hsub hm)

theorem allWritten_append {e : Element} {hs ks : List Nat} :
    AllWritten e (hs ++ ks) ↔ AllWritten e hs ∧ AllWritten e ks := List.forall_mem_append

theorem OnlyWorking.keepsWritten {e e' : Element} (h : OnlyWorking e e') : KeepsWritten e e' := h.2

theorem keepsWritten_setWd (e : Element) {i : Nat} (hi : i < 4) (x : Word32) :
    KeepsWritten e (e.setWd i x) := (onlyWorking_setWd e hi x).keepsWritten

theorem keepsWritten_setKd (e : Element) {i : Nat} (hi : i < 5) (x : Word32) :
    KeepsWritten e (e.setKd i x) := by
  intro h hw
  rw [Element.entry_setKd _ hi]
  split_ifs <;> simp [hw]

/-- An element whose reads are all written records no FAULT. -/
theorem AllWritten.noteReads_eq {e : Element} {reads : List Nat} (h : AllWritten e reads) (pc : Nat) :
    e.noteReads pc reads = e := by
  have hnone : reads.find? (fun h => !(e.entry h).written) = none := by
    rw [List.find?_eq_none]
    intro k hk
    simp [h k hk]
  unfold Element.noteReads
  rw [hnone]
  split <;> rfl

/-- No FAULT after the reads of an operation: every entry it read has been written. -/
theorem allWritten_of_noteReads_fault {e : Element} {pc : Nat} {reads : List Nat}
    (h : (e.noteReads pc reads).fault = none) : AllWritten e reads := by
  rw [Element.noteReads_fault, Option.or_eq_none_iff, Option.map_eq_none_iff, List.find?_eq_none] at h
  intro k hk
  simpa using h.2 k hk

/-! ### Another seed -/

/-- The element with other contents in its unwritten entries (log 23). -/
def Element.reseed (r : Nat) (e : Element) : Element := { e with seed := r }

@[simp] theorem Element.reseed_entry (r : Nat) (e : Element) (h : Nat) :
    (e.reseed r).entry h = e.entry h := Element.entry_congr rfl rfl rfl h

theorem AllWritten.reseed {e : Element} {reads : List Nat} (h : AllWritten e reads) (r : Nat) :
    AllWritten (e.reseed r) reads := fun k hm => by simpa using h k hm

theorem Element.reseed_half {e : Element} {h : Nat} (hw : (e.entry h).written = true) (r : Nat) :
    (e.reseed r).half h = e.half h := Element.half_of_written (e.reseed_entry r h) hw

theorem Element.reseed_slot {e : Element} {s : Nat} (hw : AllWritten e (slotReads s)) (r : Nat) :
    (e.reseed r).slot s = e.slot s := by
  unfold Element.slot
  rw [Element.reseed_half (hw _ (by simp [slotReads])), Element.reseed_half (hw _ (by simp [slotReads]))]

theorem Element.reseed_setWd (r : Nat) (e : Element) (i : Nat) (x : Word32) :
    (e.reseed r).setWd i x = (e.setWd i x).reseed r := rfl

theorem Element.reseed_setKd (r : Nat) (e : Element) (i : Nat) (x : Word32) :
    (e.reseed r).setKd i x = (e.setKd i x).reseed r := rfl

theorem Element.reseed_writeKs (r : Nat) (e : Element) (j : Nat) (v : Half) :
    (e.reseed r).writeKs j v = (e.writeKs j v).reseed r := rfl

/-! ### The bodies of the operations -/

theorem Element.reseed_mix {e : Element} {x y : Nat} (t r : Nat) (hx : x < 4) (hy : y < 4)
    (hw : AllWritten e (mixReads x y)) : (e.reseed r).mix x y t = (e.mix x y t).reseed r := by
  obtain ⟨hwx, hwy⟩ := allWritten_append.1 hw
  have k₁ := keepsWritten_setWd e hx (add32 (e.slot x) (e.slot y))
  have k₂ := keepsWritten_setWd (e.setWd x (add32 (e.slot x) (e.slot y))) hy
    (rotl32 ((e.setWd x (add32 (e.slot x) (e.slot y))).slot y) t)
  simp only [Element.mix, Element.wd, reseed_slot hwx, reseed_slot hwy, reseed_setWd,
    reseed_slot (hwy.mono k₁), reseed_slot ((hwx.mono k₁).mono k₂), reseed_slot ((hwy.mono k₁).mono k₂)]

theorem Element.reseed_round {e : Element} {n : Nat} (r : Nat) (hw : AllWritten e (roundReads n)) :
    (e.reseed r).roundBody n = (e.roundBody n).reseed r := by
  unfold roundReads at hw
  unfold Element.roundBody
  dsimp only
  split at hw <;> obtain ⟨h₁, h₂⟩ := allWritten_append.1 hw
  · rename_i hn
    rw [if_pos hn, if_pos hn, reseed_mix _ r (by omega) (by omega) h₁, reseed_mix _ r (by omega) (by omega)
      (h₂.mono (onlyWorking_mix e _ (by omega) (by omega)).keepsWritten)]
  · rename_i hn
    rw [if_neg hn, if_neg hn, reseed_mix _ r (by omega) (by omega) h₁, reseed_mix _ r (by omega) (by omega)
      (h₂.mono (onlyWorking_mix e _ (by omega) (by omega)).keepsWritten)]

theorem Element.reseed_injectWord {e : Element} {q i : Nat} (r : Nat)
    (hw : AllWritten e (slotReads i)) (hk : AllWritten e (kdReads ((q + i) % 5))) :
    (e.reseed r).injectWord q i = (e.injectWord q i).reseed r := by
  simp only [Element.injectWord, Element.wd, Element.kd, reseed_slot hw, reseed_slot (s := 8 + _) hk,
    reseed_setWd]

theorem Element.reseed_inject {e : Element} {q : Nat} (r : Nat) (hw : AllWritten e (injectReads q)) :
    (e.reseed r).injectBody q = (e.injectBody q).reseed r := by
  unfold injectReads at hw
  simp only [allWritten_append, and_assoc] at hw
  obtain ⟨w₀, k₀, w₁, k₁, w₂, k₂, w₃, k₃⟩ := hw
  have keeps : ∀ (e' : Element) (i : Nat), i < 4 → KeepsWritten e' (e'.injectWord q i) :=
    fun e' i hi => (onlyWorking_injectWord e' q hi).keepsWritten
  have o₁ := keeps e 0 (by omega)
  have o₂ := keeps (e.injectWord q 0) 1 (by omega)
  have o₃ := keeps ((e.injectWord q 0).injectWord q 1) 2 (by omega)
  have o₄ := keeps (((e.injectWord q 0).injectWord q 1).injectWord q 2) 3 (by omega)
  have w₃' := ((w₃.mono o₁).mono o₂).mono o₃
  unfold Element.injectBody
  dsimp only
  rw [reseed_injectWord r w₀ k₀, reseed_injectWord r (w₁.mono o₁) (k₁.mono o₁),
    reseed_injectWord r ((w₂.mono o₁).mono o₂) ((k₂.mono o₁).mono o₂),
    reseed_injectWord r w₃' (((k₃.mono o₁).mono o₂).mono o₃), Element.wd, Element.wd,
    reseed_slot (w₃'.mono o₄), reseed_setWd]

theorem Element.reseed_keysched {e : Element} (r : Nat) (hw : AllWritten e keyReads) :
    (e.reseed r).keyschedBody = e.keyschedBody.reseed r := by
  have hk : ∀ i < 4, (e.reseed r).kd i = e.kd i := fun i hi =>
    reseed_slot (hw.subset (by interval_cases i <;> decide)) r
  simp only [Element.keyschedBody, Element.parityWord, hk 0 (by omega), hk 1 (by omega), hk 2 (by omega),
    hk 3 (by omega), reseed_setKd]

theorem Element.reseed_initWord {e : Element} {i : Nat} (r : Nat)
    (hc : AllWritten e (slotReads (4 + i))) (hk : AllWritten e (kdReads i)) :
    (e.reseed r).initWord i = (e.initWord i).reseed r := by
  simp only [Element.initWord, Element.cd, Element.kd, reseed_slot hc, reseed_slot (s := 8 + _) hk,
    reseed_setWd]

theorem Element.reseed_init {e : Element} (r : Nat) (hw : AllWritten e (keyReads ++ counterReads)) :
    (e.reseed r).initBody = e.initBody.reseed r := by
  have sub : ∀ e', AllWritten e' (keyReads ++ counterReads) → ∀ i < 4,
      AllWritten e' (slotReads (4 + i)) ∧ AllWritten e' (kdReads i) := fun e' h i hi =>
    ⟨h.subset (by interval_cases i <;> decide), h.subset (by interval_cases i <;> decide)⟩
  have turn : ∀ e' : Element, AllWritten e' (keyReads ++ counterReads) → ∀ i < 4,
      (e'.reseed r).initWord i = (e'.initWord i).reseed r ∧
        AllWritten (e'.initWord i) (keyReads ++ counterReads) := fun e' h i hi =>
    ⟨reseed_initWord r (sub e' h i hi).1 (sub e' h i hi).2, h.mono (keepsWritten_setWd e' hi _)⟩
  have w₀ := hw.mono (keepsWritten_setKd e (i := 4) (by omega) e.parityWord)
  obtain ⟨c₀, w₁⟩ := turn _ w₀ 0 (by omega)
  obtain ⟨c₁, w₂⟩ := turn _ w₁ 1 (by omega)
  obtain ⟨c₂, w₃⟩ := turn _ w₂ 2 (by omega)
  obtain ⟨c₃, -⟩ := turn _ w₃ 3 (by omega)
  unfold Element.initBody
  rw [reseed_keysched r (allWritten_append.1 hw).1]
  unfold Element.keyschedBody
  rw [c₀, c₁, c₂, c₃]

/-! ### GEN: after INIT every entry it reads is written -/

/-- W[0..7] and KS[0..9]: what the rounds and injections of GEN read (R183). -/
def generatorReads : List Nat := List.range 8 ++ List.range' 16 10

theorem roundReads_subset (n : Nat) : roundReads n ⊆ generatorReads := by
  unfold roundReads; split <;> decide

theorem slotReads_subset {i : Nat} (hi : i < 4 ∨ 8 ≤ i ∧ i < 13) : slotReads i ⊆ generatorReads := by
  intro h hm
  simp only [slotReads, List.mem_cons, List.not_mem_nil, or_false] at hm
  simp only [generatorReads, List.mem_append, List.mem_range, List.mem_range'_1]
  omega

theorem injectReads_subset (q : Nat) : injectReads q ⊆ generatorReads := by
  have key : ∀ i, kdReads (i % 5) ⊆ generatorReads := fun i => slotReads_subset (by omega)
  have working : ∀ i < 4, slotReads i ⊆ generatorReads := fun i hi => slotReads_subset (.inl hi)
  simp only [injectReads, List.append_subset, key, working 0, working 1, working 2, working 3, Nat.reduceLT,
    and_self]

theorem allWritten_initBody {e : Element} (hw : AllWritten e keyReads) :
    AllWritten e.initBody generatorReads := by
  intro h hm
  simp only [generatorReads, List.mem_append, List.mem_range, List.mem_range'_1] at hm
  by_cases hi : h < 8 ∨ h = 24 ∨ h = 25
  · exact initBody_written e hi
  · rw [initBody_entry e hi]
    exact hw h (by simp only [keyReads, List.mem_cons, List.not_mem_nil]; omega)

theorem Element.reseed_genTurn {e : Element} (r n : Nat) (hw : AllWritten e generatorReads) :
    (e.reseed r).genTurn n = (e.genTurn n).reseed r := by
  unfold Element.genTurn
  split
  · rw [reseed_inject r (hw.subset (injectReads_subset _)),
      reseed_round r ((hw.mono (onlyWorking_inject e _).keepsWritten).subset (roundReads_subset n))]
  · exact reseed_round r (hw.subset (roundReads_subset n))

theorem Element.reseed_genTurns (r : Nat) (ns : List Nat) {e : Element}
    (hw : AllWritten e generatorReads) :
    ns.foldl Element.genTurn (e.reseed r) = (ns.foldl Element.genTurn e).reseed r := by
  induction ns generalizing e with
  | nil => rfl
  | cons n ns ih =>
    rw [List.foldl_cons, List.foldl_cons, reseed_genTurn r n hw, ih (hw.mono (onlyWorking_genTurn e n).keepsWritten)]

theorem Element.reseed_gen {e : Element} (r : Nat) (hw : AllWritten e (keyReads ++ counterReads)) :
    (e.reseed r).genBody = e.genBody.reseed r := by
  have hi := allWritten_initBody (allWritten_append.1 hw).1
  unfold Element.genBody
  rw [reseed_init r hw, reseed_genTurns r _ hi,
    reseed_inject r ((hi.mono (onlyWorking_genTurns _ _).keepsWritten).subset (injectReads_subset 5))]

/-! ### Every operation -/

theorem Element.reseed_keyid {e : Element} (r : Nat) (hid : e.identified = true) :
    (e.reseed r).keyidBody = e.keyidBody.reseed r := by
  have hrow : (e.reseed r).rowValue = e.rowValue := by simp [Element.rowValue, Element.reseed, hid]
  have hcol : (e.reseed r).colValue = e.colValue := by simp [Element.colValue, Element.reseed, hid]
  simp only [Element.keyidBody, hrow, hcol, reseed_writeKs]

/-- An operation whose reads are all written does the same whatever the seed; KEYID needs its identity. -/
theorem bodyOf_reseed {i : Instr} {e : Element} (r : Nat) (hw : AllWritten e (readsOf i))
    (hid : i = .keyid → e.identified = true) : bodyOf i (e.reseed r) = (bodyOf i e).reseed r := by
  have slots : ∀ {a b : Nat}, AllWritten e (slotReads a ++ slotReads b) →
      (e.reseed r).slot a = e.slot a ∧ (e.reseed r).slot b = e.slot b := fun h =>
    ⟨Element.reseed_slot (allWritten_append.1 h).1 r, Element.reseed_slot (allWritten_append.1 h).2 r⟩
  cases i with
  | add32 d a b => simp only [bodyOf, slots hw, Element.reseed_setWd]
  | addi32 d a imm => simp only [bodyOf, Element.reseed_slot hw r, Element.reseed_setWd]
  | xor32 d a b => simp only [bodyOf, slots hw, Element.reseed_setWd]
  | rotl32 d a amt => simp only [bodyOf, Element.reseed_slot hw r, Element.reseed_setWd]
  | mix ma mb amt => exact Element.reseed_mix amt r ma.isLt mb.isLt hw
  | inject q => exact Element.reseed_inject r hw
  | round n => exact Element.reseed_round r hw
  | keyid => exact Element.reseed_keyid r (hid rfl)
  | keysched => exact Element.reseed_keysched r hw
  | init => exact Element.reseed_init r hw
  | gen => exact Element.reseed_gen r hw
  | dump h =>
    have hh := Element.reseed_half (hw h (List.mem_singleton_self h)) r
    simp only [bodyOf, Element.dumpBody, hh]
    rfl

/-- Settles O36: an element that comes out without FAULT read written entries alone. -/
theorem faultFreeResultsUseNoFreeValue : Obligations.FaultFreeResultsUseNoFreeValue := by
  intro i s t u f ht hu k e e' u' he he' hu' hid hfault
  rw [exec_getElem ht, he, Option.map_some, Option.some.injEq] at he'
  rw [exec_getElem hu, List.getElem?_map, he, Option.map_some, Option.map_some, Option.some.injEq] at hu'
  have hnote : (e.noteReads s.pc (readsOf i)).fault = none := by
    obtain ⟨-, -, -, -, hf, -⟩ := bodyOf_keeps i (e.noteReads s.pc (readsOf i))
    rw [← hf, he', hfault]
  have hw := allWritten_of_noteReads_fault hnote
  rw [hw.noteReads_eq] at he'
  calc u' = bodyOf i ((e.reseed (f e)).noteReads s.pc (readsOf i)) := hu'.symm
    _ = bodyOf i (e.reseed (f e)) := by rw [(hw.reseed (f e)).noteReads_eq]
    _ = (bodyOf i e).reseed (f e) := bodyOf_reseed (f e) hw hid
    _ = { e' with seed := f e } := by rw [he']; rfl

end Sys2Proof.Machine
end

section
/-! PROOF. The decoder reads back the word of every legal operation, and answers legal operations alone
(30_encoding.md R70, R72, R73). -/

namespace Sys2Proof

theorem bitField_lt (w : OpWord) (hi lo : Nat) : bitField w hi lo < 2 ^ (hi + 1 - lo) :=
  Nat.mod_lt _ (Nat.two_pow_pos _)

/-! ### Which terms are legal, one rule per format with a range (R64 to R68) -/

theorem Instr.wellFormed_add32 {d : Fin 4} {a b : Nat} :
    (Instr.add32 d a b).WellFormed ↔ a ≤ 12 ∧ b ≤ 12 := by
  simp [Instr.WellFormed, Instr.check]

theorem Instr.wellFormed_addi32 {d : Fin 4} {a imm : Nat} :
    (Instr.addi32 d a imm).WellFormed ↔ a ≤ 12 ∧ imm ≤ 15 := by
  simp only [Instr.WellFormed, Instr.check]
  split_ifs <;> simp <;> omega

theorem Instr.wellFormed_xor32 {d : Fin 4} {a b : Nat} :
    (Instr.xor32 d a b).WellFormed ↔ a ≤ 12 ∧ b ≤ 12 := by
  simp [Instr.WellFormed, Instr.check]

theorem Instr.wellFormed_rotl32 {d : Fin 4} {a amt : Nat} :
    (Instr.rotl32 d a amt).WellFormed ↔ a ≤ 12 ∧ amt ≤ 31 := by
  simp only [Instr.WellFormed, Instr.check]
  split_ifs <;> simp <;> omega

theorem Instr.wellFormed_mix {ma mb : Fin 4} {amt : Nat} :
    (Instr.mix ma mb amt).WellFormed ↔ ma ≠ mb ∧ amt ≤ 31 := by
  simp only [Instr.WellFormed, Instr.check]
  split_ifs <;> simp_all

theorem Instr.wellFormed_inject {q : Nat} : (Instr.inject q).WellFormed ↔ q ≤ 5 := by
  simp only [Instr.WellFormed, Instr.check]
  split_ifs <;> simp_all

theorem Instr.wellFormed_round {n : Nat} : (Instr.round n).WellFormed ↔ n ≤ 19 := by
  simp [Instr.WellFormed, Instr.check]

theorem Instr.wellFormed_dump {h : Nat} : (Instr.dump h).WellFormed ↔ h ≤ 25 := by
  simp [Instr.WellFormed, Instr.check]

/-! ### What each format's decoder answers -/

theorem decodeR_ok {mk : Fin 4 → Nat → Nat → Instr} {w : OpWord} {i : Instr} (h : decodeR mk w = .ok i) :
    ∃ d a b, a ≤ 12 ∧ b ≤ 12 ∧ i = mk d a b := by
  unfold decodeR at h
  split_ifs at h with _ hs
  injection h with h
  exact ⟨_, _, _, by omega, by omega, h.symm⟩

theorem decodeI_ok {mk : Fin 4 → Nat → Nat → Instr} {w : OpWord} {i : Instr} (h : decodeI mk w = .ok i) :
    ∃ d a imm, a ≤ 12 ∧ imm ≤ 15 ∧ i = mk d a imm := by
  unfold decodeI at h
  split_ifs at h with _ hs
  injection h with h
  exact ⟨_, _, _, by omega, Nat.le_of_lt_succ (bitField_lt w 5 2), h.symm⟩

theorem decodeS_ok {mk : Fin 4 → Nat → Nat → Instr} {w : OpWord} {i : Instr} (h : decodeS mk w = .ok i) :
    ∃ d a amt, a ≤ 12 ∧ amt ≤ 31 ∧ i = mk d a amt := by
  unfold decodeS at h
  split_ifs at h with _ hs
  injection h with h
  exact ⟨_, _, _, by omega, Nat.le_of_lt_succ (bitField_lt w 4 0), h.symm⟩

theorem decodeM_ok {mk : Fin 4 → Fin 4 → Nat → Instr} {w : OpWord} {i : Instr} (h : decodeM mk w = .ok i) :
    ∃ ma mb amt, ma ≠ mb ∧ amt ≤ 31 ∧ i = mk ma mb amt := by
  unfold decodeM at h
  split_ifs at h with _ hs
  injection h with h
  exact ⟨_, _, _, hs, Nat.le_of_lt_succ (bitField_lt w 4 0), h.symm⟩

theorem decodeN_ok {mk : Nat → Instr} {limit : Nat} {w : OpWord} {i : Instr}
    (h : decodeN mk limit w = .ok i) : ∃ k ≤ limit, i = mk k := by
  unfold decodeN at h
  split_ifs at h with _ hs
  injection h with h
  exact ⟨_, by omega, h.symm⟩

theorem decodeZ_ok {w : OpWord} {i : Instr} (h : decodeZ w = .ok i) :
    i = .keyid ∨ i = .keysched ∨ i = .init ∨ i = .gen := by
  unfold decodeZ at h
  split_ifs at h
  split at h <;> cases h <;> simp

/-- The decoder answers legal operations alone (R72). -/
theorem decode_wellFormed {w : OpWord} {i : Instr} (h : decode w = .ok i) : i.WellFormed := by
  unfold decode at h
  split at h
  · obtain ⟨d, a, b, ha, hb, rfl⟩ := decodeR_ok h; exact Instr.wellFormed_add32.2 ⟨ha, hb⟩
  · obtain ⟨d, a, imm, ha, hm, rfl⟩ := decodeI_ok h; exact Instr.wellFormed_addi32.2 ⟨ha, hm⟩
  · obtain ⟨d, a, b, ha, hb, rfl⟩ := decodeR_ok h; exact Instr.wellFormed_xor32.2 ⟨ha, hb⟩
  · obtain ⟨d, a, amt, ha, ht, rfl⟩ := decodeS_ok h; exact Instr.wellFormed_rotl32.2 ⟨ha, ht⟩
  · obtain ⟨ma, mb, amt, hne, ht, rfl⟩ := decodeM_ok h; exact Instr.wellFormed_mix.2 ⟨hne, ht⟩
  · obtain ⟨q, hq, rfl⟩ := decodeN_ok h; exact Instr.wellFormed_inject.2 hq
  · obtain ⟨n, hn, rfl⟩ := decodeN_ok h; exact Instr.wellFormed_round.2 hn
  · obtain rfl | rfl | rfl | rfl := decodeZ_ok h <;> rfl
  · obtain ⟨k, hk, rfl⟩ := decodeN_ok h; exact Instr.wellFormed_dump.2 hk
  · cases h

/-! ### The word of a legal operation -/

theorem decodeR_encodeR (mk : Fin 4 → Nat → Nat → Instr) {op a b : Nat} (d : Fin 4) (ho : op < 16)
    (ha : a ≤ 12) (hb : b ≤ 12) : decodeR mk (encodeR op d a b) = .ok (mk d a b) := by
  obtain ⟨-, hd, hfa, hfb, hz⟩ := encodeR_fields op d a b ho (by omega) (by omega)
  simp [decodeR, hd, hfa, hfb, hz, ha, hb]

theorem decodeI_encodeR (mk : Fin 4 → Nat → Nat → Instr) {op a imm : Nat} (d : Fin 4) (ho : op < 16)
    (ha : a ≤ 12) (hm : imm ≤ 15) : decodeI mk (encodeR op d a imm) = .ok (mk d a imm) := by
  obtain ⟨-, hd, hfa, hfb, hz⟩ := encodeR_fields op d a imm ho (by omega) (by omega)
  simp [decodeI, hd, hfa, hfb, hz, ha]

theorem decodeS_encodeS (mk : Fin 4 → Nat → Nat → Instr) {op a amt : Nat} (d : Fin 4) (ho : op < 16)
    (ha : a ≤ 12) (ht : amt ≤ 31) : decodeS mk (encodeS op d a amt) = .ok (mk d a amt) := by
  obtain ⟨-, hd, hfa, hz, hft⟩ := encodeS_fields op d a amt ho (by omega) (by omega)
  simp [decodeS, hd, hfa, hft, hz, ha]

theorem decodeM_encodeM (mk : Fin 4 → Fin 4 → Nat → Instr) {op amt : Nat} {ma mb : Fin 4} (ho : op < 16)
    (hne : ma ≠ mb) (ht : amt ≤ 31) : decodeM mk (encodeM op ma mb amt) = .ok (mk ma mb amt) := by
  obtain ⟨-, ha, hb, hz, hft⟩ := encodeM_fields op ma mb amt ho (by omega)
  simp [decodeM, ha, hb, hft, hz, hne]

theorem decodeN_encodeN (mk : Nat → Instr) {op k limit : Nat} (ho : op < 16) (hk : k ≤ limit)
    (hl : limit ≤ 31) : decodeN mk limit (encodeN op k) = .ok (mk k) := by
  obtain ⟨-, hz, hf⟩ := encodeN_fields op k ho (by omega)
  simp [decodeN, hz, hf, hk]

/-- The decoder reads back every legal operation from its word (R73). -/
theorem decode_encode {i : Instr} (hi : i.WellFormed) : decode (encode i) = .ok i := by
  have opR : ∀ {op a b : Nat} (d : Fin 4), op < 16 → a < 16 → b < 16 →
      bitField (encodeR op d a b) 15 12 = op := fun d ho ha hb => (encodeR_fields _ d _ _ ho ha hb).1
  have opN : ∀ {op k : Nat}, op < 16 → k < 32 → bitField (encodeN op k) 15 12 = op := fun ho hk =>
    (encodeN_fields _ _ ho hk).1
  unfold decode
  cases i with
  | add32 d a b =>
    obtain ⟨ha, hb⟩ := Instr.wellFormed_add32.1 hi
    rw [encode, opR d (by omega) (by omega) (by omega)]
    exact decodeR_encodeR _ d (by omega) ha hb
  | addi32 d a imm =>
    obtain ⟨ha, hm⟩ := Instr.wellFormed_addi32.1 hi
    rw [encode, opR d (by omega) (by omega) (by omega)]
    exact decodeI_encodeR _ d (by omega) ha hm
  | xor32 d a b =>
    obtain ⟨ha, hb⟩ := Instr.wellFormed_xor32.1 hi
    rw [encode, opR d (by omega) (by omega) (by omega)]
    exact decodeR_encodeR _ d (by omega) ha hb
  | rotl32 d a amt =>
    obtain ⟨ha, ht⟩ := Instr.wellFormed_rotl32.1 hi
    rw [encode, (encodeS_fields 4 d a amt (by omega) (by omega) (by omega)).1]
    exact decodeS_encodeS _ d (by omega) ha ht
  | mix ma mb amt =>
    obtain ⟨hne, ht⟩ := Instr.wellFormed_mix.1 hi
    rw [encode, (encodeM_fields 5 ma mb amt (by omega) (by omega)).1]
    exact decodeM_encodeM _ (by omega) hne ht
  | inject q =>
    have hq := Instr.wellFormed_inject.1 hi
    rw [encode, opN (by omega) (by omega)]
    exact decodeN_encodeN _ (by omega) hq (by omega)
  | round n =>
    have hn := Instr.wellFormed_round.1 hi
    rw [encode, opN (by omega) (by omega)]
    exact decodeN_encodeN _ (by omega) hn (by omega)
  | keyid => decide
  | keysched => decide
  | init => decide
  | gen => decide
  | dump h =>
    have hh := Instr.wellFormed_dump.1 hi
    rw [encode, opN (by omega) (by omega)]
    exact decodeN_encodeN _ (by omega) hh (by omega)

theorem legalWord_encode {i : Instr} (hi : i.WellFormed) : legalWord (encode i) = true := by
  simp [legalWord, decode_encode hi]

/-- A legal word is the word of an operation that completes. -/
theorem decode_of_legalWord {w : OpWord} (hw : legalWord w = true) :
    ∃ i, decode w = .ok i ∧ i.WellFormed := by
  unfold legalWord at hw
  split at hw
  · rename_i i hi; exact ⟨i, hi, decode_wellFormed hi⟩
  · cases hw

end Sys2Proof
end

section
/-! PROOF. Who writes each kind of state: what every operation leaves unchanged in an element (10_state.md
R23, R25, R27, R29, R35, R127), and what every step but Reset and Construct keeps. -/

namespace Sys2Proof.Machine

open Sys2Proof.Claims

/-! ### The entries an operation leaves -/

/-- KEYID writes the key words alone (R110). -/
theorem keyidBody_entry (e : Element) {h : Nat} (hh : ¬ (16 ≤ h ∧ h < 24)) :
    e.keyidBody.entry h = e.entry h := by
  simp only [Element.keyidBody, Element.entry_writeKs]
  repeat rw [if_neg (by omega)]

/-- KEYSCHED writes the parity word alone (R112). -/
theorem keyschedBody_entry (e : Element) {h : Nat} (hh : h ≠ 24 ∧ h ≠ 25) :
    e.keyschedBody.entry h = e.entry h := by
  rw [Element.keyschedBody, Element.entry_setKd e (by omega), if_neg (by omega), if_neg (by omega)]

/-- GEN writes W and the parity word alone (R123). -/
theorem genBody_entry (e : Element) {h : Nat} (hh : 8 ≤ h ∧ h ≠ 24 ∧ h ≠ 25) :
    e.genBody.entry h = e.entry h := by
  rw [(onlyWorking_gen e).1 h hh.1, initBody_entry e (by omega)]

/-- An operation that is not of the key schedule or the engine writes W alone. -/
theorem onlyWorking_bodyOf {i : Instr} (e : Element) (hid : i ≠ .keyid) (hks : i ≠ .keysched)
    (hin : i ≠ .init) (hgen : i ≠ .gen) : OnlyWorking e (bodyOf i e) := by
  cases i with
  | add32 d a b => exact onlyWorking_setWd e d.isLt _
  | addi32 d a imm => exact onlyWorking_setWd e d.isLt _
  | xor32 d a b => exact onlyWorking_setWd e d.isLt _
  | rotl32 d a amt => exact onlyWorking_setWd e d.isLt _
  | mix ma mb amt => exact onlyWorking_mix e amt ma.isLt mb.isLt
  | inject q => exact onlyWorking_inject e q
  | round n => exact onlyWorking_round e n
  | keyid => exact absurd rfl hid
  | keysched => exact absurd rfl hks
  | init => exact absurd rfl hin
  | gen => exact absurd rfl hgen
  | dump h => exact onlyWorking_refl e

/-- KEYID alone writes the key words KS[0..7] (R23). -/
theorem bodyOf_key_entry {i : Instr} (e : Element) (hid : i ≠ .keyid) {h : Nat} (h₁ : 16 ≤ h)
    (h₂ : h < 24) : (bodyOf i e).entry h = e.entry h := by
  by_cases hks : i = .keysched
  · subst hks; exact keyschedBody_entry e (by omega)
  by_cases hin : i = .init
  · subst hin; exact initBody_entry e (by omega)
  by_cases hgen : i = .gen
  · subst hgen; exact genBody_entry e (by omega)
  exact (onlyWorking_bodyOf e hid hks hin hgen).1 h (by omega)

/-- KEYSCHED, INIT and GEN alone write the parity word (R23). -/
theorem bodyOf_parity_entry {i : Instr} (e : Element) (hks : i ≠ .keysched) (hin : i ≠ .init)
    (hgen : i ≠ .gen) {h : Nat} (hh : 24 ≤ h) : (bodyOf i e).entry h = e.entry h := by
  by_cases hid : i = .keyid
  · subst hid; exact keyidBody_entry e (by omega)
  exact (onlyWorking_bodyOf e hid hks hin hgen).1 h (by omega)

/-- KEYID, KEYSCHED and DUMP leave W (R23). -/
theorem bodyOf_w {i : Instr} (e : Element) (hi : i = .keyid ∨ i = .keysched ∨ isDump i = true) :
    (bodyOf i e).w = e.w := by
  rcases hi with rfl | rfl | hd
  · exact Element.keyidBody_w e
  · exact Element.keyschedBody_w e
  · cases i with
    | dump h => rfl
    | _ => cases hd

/-- The two entries of a working word, from W. -/
theorem Element.entry_of_w {e e' : Element} (hw : e'.w = e.w) {h : Nat} (hh : h < 8) :
    e'.entry h = e.entry h := by simp [Element.entry, hh, hw]

/-- A write of one working word leaves the entries of the others. -/
theorem Element.entry_setWd_other (e : Element) (d : Fin 4) (x : Word32) {j : Nat} (hj : j ∉ [d.val]) :
    (e.setWd d x).entry (2 * j) = e.entry (2 * j) ∧
      (e.setWd d x).entry (2 * j + 1) = e.entry (2 * j + 1) := by
  rw [List.mem_singleton] at hj
  constructor <;> rw [Element.entry_setWd e d.isLt, if_neg (by omega), if_neg (by omega)]

/-- No operation writes a working word its rule does not name (R23). -/
theorem bodyOf_working_entry {i : Instr} (hi : i.WellFormed) (e : Element) {j : Nat} (hj : j < 4)
    (hn : j ∉ workingWordsWritten i) :
    (bodyOf i e).entry (2 * j) = e.entry (2 * j) ∧
      (bodyOf i e).entry (2 * j + 1) = e.entry (2 * j + 1) := by
  have all : j ∈ [0, 1, 2, 3] := by simp only [List.mem_cons]; omega
  cases i with
  | add32 d a b => exact e.entry_setWd_other d _ hn
  | addi32 d a imm => exact e.entry_setWd_other d _ hn
  | xor32 d a b => exact e.entry_setWd_other d _ hn
  | rotl32 d a amt => exact e.entry_setWd_other d _ hn
  | mix ma mb amt =>
    have hne : ma.val ≠ mb.val := Fin.val_ne_of_ne (Instr.wellFormed_mix.1 hi).1
    simp only [workingWordsWritten, List.mem_cons, List.not_mem_nil, or_false, not_or] at hn
    simp only [bodyOf, entry_mix e amt _ ma.isLt mb.isLt hne]
    constructor <;> repeat rw [if_neg (by omega)]
  | inject q => exact absurd all hn
  | round n => exact absurd all hn
  | init => exact absurd all hn
  | gen => exact absurd all hn
  | keyid => exact ⟨Element.entry_of_w (bodyOf_w e (.inl rfl)) (by omega),
      Element.entry_of_w (bodyOf_w e (.inl rfl)) (by omega)⟩
  | keysched => exact ⟨Element.entry_of_w (bodyOf_w e (.inr (.inl rfl))) (by omega),
      Element.entry_of_w (bodyOf_w e (.inr (.inl rfl))) (by omega)⟩
  | dump h => exact ⟨rfl, rfl⟩

/-! ### TRACE and FAULT -/

/-- TRACE grows at its end alone (R29). -/
theorem bodyOf_trace_prefix (i : Instr) (e : Element) : e.trace <+: (bodyOf i e).trace := by
  cases i with
  | dump h => exact List.prefix_append _ _
  | _ => simp [bodyOf]

/-- DUMP alone appends to TRACE (R29). -/
theorem bodyOf_trace {i : Instr} (hd : isDump i = false) (e : Element) :
    (bodyOf i e).trace = e.trace := by
  cases i with
  | dump h => cases hd
  | _ => simp [bodyOf]

/-- FAULT after an operation is what its reads recorded. -/
@[simp] theorem bodyOf_fault (i : Instr) (e : Element) : (bodyOf i e).fault = e.fault := by
  obtain ⟨-, -, -, -, hf, -⟩ := bodyOf_keeps i e
  exact hf

/-- FAULT stays over the reads of an operation, or was none and is UNINIT of an unwritten one (R35). -/
theorem Element.noteReads_fault_cases (pc : Nat) (reads : List Nat) (e : Element) :
    (e.noteReads pc reads).fault = e.fault ∨
      (e.fault = none ∧ ∃ h ∈ reads, (e.noteReads pc reads).fault = some ⟨h, pc⟩ ∧
        (e.entry h).written = false) := by
  rw [Element.noteReads_fault]
  cases hf : e.fault with
  | some f => exact .inl rfl
  | none =>
    cases hr : reads.find? (fun h => !(e.entry h).written) with
    | none => exact .inl rfl
    | some h => exact .inr ⟨rfl, h, List.mem_of_find?_eq_some hr, rfl, by simpa using List.find?_some hr⟩

/-- Settles O34: the frame of every operation, part by part. -/
theorem writersOfEachState : Obligations.WritersOfEachState := by
  intro i s t ht
  obtain ⟨hi, rfl⟩ := exec_next ht
  refine ⟨rfl, by simp [SequencerKept], ?_⟩
  rw [State.lockstep_elems, List.forall₂_map_right_iff, List.forall₂_same]
  intro e _
  obtain ⟨hrow, hcol, hctr, hseed, -, hident⟩ := bodyOf_keeps i (e.noteReads s.pc (readsOf i))
  refine ⟨by simp [hctr], by simp [hrow], by simp [hcol], by simp [hident], by simp [hseed],
    fun hid h h₁ h₂ => ?_, fun hks hin hgen h hh => ?_, fun hw => ?_, fun j hj hn => ?_, fun hd => ?_, ?_⟩
  · rw [bodyOf_key_entry _ hid h₁ h₂, Element.entry_noteReads]
  · rw [bodyOf_parity_entry _ hks hin hgen hh, Element.entry_noteReads]
  · rw [bodyOf_w _ hw, Element.noteReads_w]
  · simpa using bodyOf_working_entry hi (e.noteReads s.pc (readsOf i)) hj hn
  · rw [bodyOf_trace hd, Element.noteReads_trace]
  · rw [bodyOf_fault]
    obtain hsame | ⟨hnone, h, hmem, hset, hunwritten⟩ := e.noteReads_fault_cases s.pc (readsOf i)
    · exact .inl hsame
    · have hid : i ≠ .keyid := by rintro rfl; cases hmem
      exact .inr ⟨hnone, hid, h, hset, hunwritten⟩

/-! ### Identity, TRACE and FAULT over a step -/

/-- The element keeps ROW and COL with their mark and a FAULT that is set, and its TRACE only grows (R25, R29,
R35). -/
def Persists (e e' : Element) : Prop :=
  e'.row = e.row ∧ e'.col = e.col ∧ e'.identified = e.identified ∧ e.trace <+: e'.trace ∧
    (e.fault ≠ none → e'.fault = e.fault)

theorem persists_refl (e : Element) : Persists e e := ⟨rfl, rfl, rfl, List.prefix_rfl, fun _ => rfl⟩

theorem forall₂_persists_refl (es : List Element) : List.Forall₂ Persists es es :=
  List.forall₂_same.2 fun e _ => persists_refl e

theorem forall₂_persists_map {f : Element → Element} (hf : ∀ e, Persists e (f e)) (es : List Element) :
    List.Forall₂ Persists es (es.map f) := by
  rw [List.forall₂_map_right_iff, List.forall₂_same]
  exact fun e _ => hf e

theorem persists_operation (i : Instr) (pc : Nat) (e : Element) :
    Persists e (bodyOf i (e.noteReads pc (readsOf i))) := by
  obtain ⟨hrow, hcol, -, -, -, hident⟩ := bodyOf_keeps i (e.noteReads pc (readsOf i))
  refine ⟨by simp [hrow], by simp [hcol], by simp [hident], ?_, fun hset => ?_⟩
  · simpa using bodyOf_trace_prefix i (e.noteReads pc (readsOf i))
  · obtain hsame | ⟨hnone, -⟩ := e.noteReads_fault_cases pc (readsOf i)
    · rw [bodyOf_fault, hsame]
    · exact absurd hnone hset

theorem persists_hostWrite (row col : Half) (array : ArrayName) (j : Nat) (v : Half) (e : Element) :
    Persists e (if e.isAt row col then e.hostWrite array j v else e) := by
  obtain ⟨hrow, hcol, hident, -, htrace, hfault, -⟩ := hostWrite_keeps array j v e
  split
  · exact ⟨hrow, hcol, hident, by rw [htrace], fun _ => hfault⟩
  · exact persists_refl e

theorem takeStream_elems (error : Option Err) (ws : List OpWord) (s : State) :
    (s.takeStream error ws).elems = s.elems := by
  cases error <;> rfl

/-- A step of a run keeps identity, TRACE and FAULT in every element. -/
theorem persists_stepRun {s t : State} (h : stepRun s = .next t) :
    List.Forall₂ Persists s.elems t.elems := by
  obtain ⟨-, rfl⟩ | ⟨i, -, -, rfl⟩ := stepRun_next h
  · rw [State.endRun_elems]; exact forall₂_persists_refl _
  · rw [State.endRun_elems, State.lockstep_elems]
    exact forall₂_persists_map (persists_operation i s.pc) _

/-- Settles O46: every step but one that serves Reset or Construct keeps them. -/
theorem identityTraceAndFaultPersist : Obligations.IdentityTraceAndFaultPersist := by
  intro s t h
  obtain ⟨-, hrun⟩ | ⟨hs, a, rest, r, u, hp, hact, rfl⟩ := step_next h
  · have hkeeps := persists_stepRun hrun
    rw [State.answerStatus_elems] at hkeeps
    exact .inr (.inr hkeeps)
  · obtain rfl | ⟨rfl, -, -⟩ | ⟨rows, cols, l, ps, rfl, -, hc, -⟩ | ⟨ws, rfl, -, rfl⟩ | ⟨is, rfl, -, rfl⟩ |
      ⟨row, col, array, j, v, rfl, -, -, rfl⟩ | ⟨rfl, -, -, -, rfl⟩ := hostAct_cases hact
    · exact .inr (.inr (forall₂_persists_refl _))
    · exact .inl ⟨hs, rest, hp⟩
    · exact .inr (.inl ⟨hs, hc, rows, cols, l, ps, rest, hp⟩)
    · exact .inr (.inr (by rw [takeStream_elems]; exact forall₂_persists_refl _))
    · exact .inr (.inr (by rw [takeStream_elems]; exact forall₂_persists_refl _))
    · exact .inr (.inr (forall₂_persists_map (persists_hostWrite row col array j v) _))
    · exact .inr (.inr (by rw [State.endRun_elems]; exact forall₂_persists_refl _))

end Sys2Proof.Machine
end

section
/-! PROOF. What a step is in each case: a run issues the decoded word, a machine at rest serves its host
(10_state.md R26, R27, R33; 60_exceptions.md R163). -/

namespace Sys2Proof.Machine

open Sys2Proof.Claims

/-! ### The two kinds of step -/

theorem step_of_running {s : State} (h : s.status = .running) : step s = stepRun s.answerStatus := by
  unfold step; rw [h]

theorem step_of_not_running {s : State} (h : s.status ≠ .running) : step s = stepHost s := by
  unfold step
  cases hs : s.status with
  | running => exact absurd hs h
  | _ => rfl

theorem answerStatus_of_readStatus {s : State} {rest : List HostAction}
    (h : s.pending = .readStatus :: rest) :
    s.answerStatus = { s with pending := rest, replies := s.replies ++ [s.statusReply] } := by
  unfold State.answerStatus; rw [h]

theorem answerStatus_of_no_readStatus {s : State} (h : ∀ rest, s.pending ≠ .readStatus :: rest) :
    s.answerStatus = s := by
  unfold State.answerStatus
  split
  · rename_i rest hp; exact absurd hp (h rest)
  · rfl

/-- A step of a run whose word at pc decodes to an operation that completes (R27, R160). -/
theorem stepRun_of_exec {s t : State} {i : Instr} (h : s.fetch = some (.ok i)) (he : exec i s = .next t) :
    stepRun s = .next t.endRun := by
  simp only [stepRun, h, he]

/-- Settles O39: the word that is fetched is the one that is executed. -/
theorem stepRunsTheDecodedOperation : Obligations.StepRunsTheDecodedOperation := by
  intro s w i hs hw hd
  refine ⟨fun rest => answerStatus_of_readStatus, answerStatus_of_no_readStatus, ?_⟩
  have hf : s.answerStatus.fetch = some (.ok i) := by rw [State.answerStatus_fetch, fetch_of_word hw, hd]
  simp only [step_of_running hs, stepRun, hf]
  cases exec i s.answerStatus <;> rfl

/-- Settles O41: the action is served as `hostAct` answers it. -/
theorem stepAtRestServesTheHost : Obligations.StepAtRestServesTheHost := by
  intro s hs
  rw [step_of_not_running hs]
  refine ⟨fun hp => ?_, fun a rest hp => ⟨fun r u hact => ?_, fun hact => ?_⟩⟩ <;> unfold stepHost <;> rw [hp]
  · simp [State.serve, hact]
  · simp [State.serve, hact]

/-! ### A run under the invariant -/

/-- A run under the invariant has a legal operation to issue, and the step issues it (R140). -/
theorem step_of_inv_running {s : State} (hinv : s.Inv) (hs : s.status = .running) :
    ∃ i : Instr, i.WellFormed ∧
      step s = .next (s.answerStatus.lockstep (readsOf i) (bodyOf i)).endRun := by
  have hlt : s.pc < (s.stream.getD []).length := hinv.running hs
  obtain ⟨i, hd, hi⟩ := decode_of_legalWord (hinv.streamLegal _ (List.getElem_mem hlt))
  have hf : s.answerStatus.fetch = some (.ok i) := by
    rw [State.answerStatus_fetch, fetch_of_word (List.getElem?_eq_getElem hlt), hd]
  exact ⟨i, hi, by rw [step_of_running hs, stepRun_of_exec hf (exec_legal hi _)]⟩

/-- What ReadStatus returns while a run is in progress: RUNNING and ERR 0 (R26, R142). -/
theorem statusReply_of_inv_running {s : State} (hinv : s.Inv) (hs : s.status = .running) :
    s.statusReply = .status 1 0 0 := by
  have herr : s.err = Err.zero := hinv.errAgrees.2 (by simp [hs])
  rw [State.statusReply, hs, herr]
  rfl

/-- Settles O60: the numbers, the reply in every state, and the reply of a run's next step. -/
theorem statusIsReadAtAnyTime : Obligations.StatusIsReadAtAnyTime := by
  refine ⟨rfl, rfl, fun s => rfl, fun s rest hinv hs hp => ?_⟩
  obtain ⟨i, -, hstep⟩ := step_of_inv_running hinv hs
  have hanswer := answerStatus_of_readStatus hp
  refine ⟨_, hstep, ?_, ?_, ?_, ?_⟩
  · rw [State.endRun_pending, State.lockstep_pending, hanswer]
  · rw [State.endRun_replies, State.lockstep_replies, hanswer, statusReply_of_inv_running hinv hs]
  · rw [State.endRun_pc, State.lockstep_pc, State.answerStatus_pc]
  · rw [State.endRun_err, State.lockstep_err, State.answerStatus_err]

/-! ### Reset -/

theorem forall₂_mapIdx {α β : Type} {R : α → β → Prop} {f : Nat → α → β} (h : ∀ k a, R a (f k a))
    (l : List α) : List.Forall₂ R l (l.mapIdx f) := by
  induction l generalizing f with
  | nil => exact .nil
  | cons a l ih => rw [List.mapIdx_cons]; exact .cons (h 0 a) (ih fun k => h (k + 1))

theorem State.toReset_constructed (s : State) : s.toReset.constructed = false := by
  simp only [State.constructed, State.toReset_elems, List.any_eq_false, List.mem_mapIdx]
  rintro _ ⟨k, hk, rfl⟩
  simp

theorem State.toReset_mustConstruct_iff (s : State) :
    s.toReset.mustConstruct = true ↔ AwaitsConstruct s := by
  simp [AwaitsConstruct, or_comm]

/-- Settles O47: Reset where it is allowed, and the values it gives. -/
theorem resetEffect : Obligations.ResetEffect := by
  refine ⟨⟨rfl, rfl, rfl, rfl, rfl, List.cons_ne_nil _ _, fun e he => ?_⟩, fun s => ⟨fun hs => ?_, fun hs => ?_⟩⟩
  · obtain rfl : e = Element.blank 0 0 0 := List.mem_singleton.1 he
    exact ⟨fun h => by simp [Entry.blank], rfl, rfl, rfl⟩
  · simp [State.hostAct, hs]
  · refine ⟨s.toReset, by simp [State.hostAct, hs], rfl, rfl, rfl, rfl, rfl, rfl, rfl, rfl,
      s.toReset_constructed, s.toReset_mustConstruct_iff, ?_⟩
    exact forall₂_mapIdx (fun k e => ⟨rfl, rfl, rfl, fun h => by simp [Entry.blank], rfl, rfl⟩) s.elems

end Sys2Proof.Machine
end

section
/-! PROOF. The invariant of the machine holds at reset and is kept by every step: the part about the grid,
the part about the sequencer, and what each operation and host action does to the two (10_state.md R25, R26,
R27, R30; 60_exceptions.md R148, R151, R163). -/

namespace Sys2Proof.Machine

/-! ### The two halves of the invariant -/

/-- The part of the invariant that speaks of the elements of the grid. -/
structure GridSound (s : State) : Prop where
  gridSize : (1 ≤ s.rows ∧ s.rows ≤ Config.maxGrid) ∧ (1 ≤ s.cols ∧ s.cols ≤ Config.maxGrid) ∧
    s.elems.length = s.rows * s.cols
  insideGrid : ∀ e ∈ s.elems, e.row.toNat < s.rows ∧ e.col.toNat < s.cols
  identities : (s.elems.map (fun e => (e.row, e.col))).Nodup
  together : (∀ e ∈ s.elems, e.identified = true) ∨ ∀ e ∈ s.elems, e.identified = false
  seedsFresh : ∀ e ∈ s.elems, e.seed < s.draws
  seedsDistinct : (s.elems.map Element.seed).Nodup

/-- The part of the invariant that speaks of the stream, pc, STATUS and ERR. -/
structure SequencerSound (s : State) : Prop where
  streamLegal : ∀ w ∈ s.stream.getD [], legalWord w = true
  pcBound : s.pc ≤ s.len
  running : s.status = .running → s.pc < s.len
  ended : s.status = .done → s.pc = s.len
  errAgrees : s.err = Err.zero ↔ s.status ≠ .rejected
  awaiting : s.mustConstruct = true →
    s.status ≠ .running ∧ s.status ≠ .done ∧ s.constructed = false

theorem inv_iff (s : State) : s.Inv ↔ GridSound s ∧ SequencerSound s :=
  ⟨fun h => ⟨{ h with }, { h with }⟩, fun ⟨hg, hq⟩ => { hg, hq with }⟩

/-- Settles O42: one blank element, no stream, and STATUS IDLE. -/
theorem invariantAtReset : Obligations.InvariantAtReset := by
  refine (inv_iff _).2 ⟨?_, ?_⟩
  · exact {
      gridSize := by decide
      insideGrid := by simp [State.reset]
      identities := List.nodup_singleton _
      together := .inr (by simp [State.reset])
      seedsFresh := by simp [State.reset]
      seedsDistinct := List.nodup_singleton _ }
  · exact {
      streamLegal := by simp [State.reset]
      pcBound := Nat.zero_le _
      running := by simp [State.reset]
      ended := by simp [State.reset]
      errAgrees := by simp [State.reset]
      awaiting := by simp [State.reset] }

/-! ### A step that keeps every element's identity -/

/-- What the invariant reads of an element: its identity with its mark, and its seed. -/
def Element.tag (e : Element) : (Half × Half) × Bool × Nat := ((e.row, e.col), e.identified, e.seed)

/-- The grid has the same size and its elements the same identities and seeds. -/
def SameGrid (s t : State) : Prop :=
  t.rows = s.rows ∧ t.cols = s.cols ∧ t.draws = s.draws ∧
    t.elems.map Element.tag = s.elems.map Element.tag

/-- What holds of the images of one list holds of the equal images of another. -/
theorem forall_mem_of_map_eq {α β γ : Type} {f : α → γ} {g : β → γ} {l : List α} {l' : List β}
    (h : l.map f = l'.map g) {P : γ → Prop} (hP : ∀ b ∈ l', P (g b)) : ∀ a ∈ l, P (f a) := by
  rw [← List.forall_mem_map (f := f), h, List.forall_mem_map]
  exact hP

theorem SameGrid.forall_tag {s t : State} (h : SameGrid s t) {P : (Half × Half) × Bool × Nat → Prop}
    (hs : ∀ e ∈ s.elems, P e.tag) : ∀ e ∈ t.elems, P e.tag := by
  obtain ⟨-, -, -, htags⟩ := h
  exact forall_mem_of_map_eq htags hs

theorem SameGrid.map_tag {s t : State} (h : SameGrid s t) {α : Type} (f : (Half × Half) × Bool × Nat → α) :
    t.elems.map (fun e => f e.tag) = s.elems.map (fun e => f e.tag) := by
  obtain ⟨-, -, -, htags⟩ := h
  simpa [Function.comp_def] using congrArg (List.map f) htags

theorem SameGrid.constructed {s t : State} (h : SameGrid s t) : t.constructed = s.constructed := by
  have hid := h.map_tag (fun x => x.2.1)
  simpa [State.constructed, Element.tag, List.any_map, Function.comp_def] using
    congrArg (fun l => l.any id) hid

theorem GridSound.of_sameGrid {s t : State} (hs : GridSound s) (h : SameGrid s t) : GridSound t := by
  obtain ⟨hrows, hcols, hdraws, -⟩ := id h
  have hlen : t.elems.length = s.elems.length := by
    simpa using congrArg List.length (h.map_tag id)
  refine ⟨?_, ?_, ?_, ?_, ?_, ?_⟩
  · rw [hrows, hcols, hlen]; exact hs.gridSize
  · rw [hrows, hcols]
    exact h.forall_tag (P := fun x => x.1.1.toNat < s.rows ∧ x.1.2.toNat < s.cols) hs.insideGrid
  · have hmap := h.map_tag Prod.fst
    simp only [Element.tag] at hmap
    rw [hmap]; exact hs.identities
  · exact hs.together.imp (h.forall_tag (P := fun x => x.2.1 = true))
      (h.forall_tag (P := fun x => x.2.1 = false))
  · rw [hdraws]
    exact h.forall_tag (P := fun x => x.2.2 < s.draws) hs.seedsFresh
  · have hmap : t.elems.map Element.seed = s.elems.map Element.seed := h.map_tag (fun x => x.2.2)
    rw [hmap]; exact hs.seedsDistinct

theorem sameGrid_of_elems {s t : State} (hr : t.rows = s.rows) (hc : t.cols = s.cols)
    (hd : t.draws = s.draws) (he : t.elems = s.elems) : SameGrid s t := ⟨hr, hc, hd, by rw [he]⟩

theorem map_tag_map {f : Element → Element} (hf : ∀ e, (f e).tag = e.tag) (es : List Element) :
    (es.map f).map Element.tag = es.map Element.tag := by
  rw [List.map_map]; exact List.map_congr_left fun e _ => hf e

theorem tag_operation (i : Instr) (pc : Nat) (e : Element) :
    (bodyOf i (e.noteReads pc (readsOf i))).tag = e.tag := by
  obtain ⟨hrow, hcol, -, hseed, -, hident⟩ := bodyOf_keeps i (e.noteReads pc (readsOf i))
  simp [Element.tag, hrow, hcol, hseed, hident]

theorem tag_hostWrite (row col : Half) (array : ArrayName) (j : Nat) (v : Half) (e : Element) :
    (if e.isAt row col then e.hostWrite array j v else e).tag = e.tag := by
  obtain ⟨hrow, hcol, hident, -, -, -, hseed⟩ := hostWrite_keeps array j v e
  split
  · simp [Element.tag, hrow, hcol, hseed, hident]
  · rfl

/-! ### The error codes of a rejection -/

theorem firstIllegalWord_ne_zero {k : Nat} {ws : List OpWord} {err : Err}
    (h : firstIllegalWord k ws = some err) : err ≠ Err.zero := by
  induction ws generalizing k with
  | nil => cases h
  | cons w ws ih =>
    unfold firstIllegalWord at h
    split at h
    · exact ih h
    · cases h; simp [Err.zero]

theorem firstTermError_ne_zero {k : Nat} {is : List Instr} {err : Err}
    (h : firstTermError k is = some err) : err ≠ Err.zero := by
  induction is generalizing k with
  | nil => cases h
  | cons i is ih =>
    unfold firstTermError at h
    split at h
    · exact ih h
    · rename_i e _
      cases h
      cases e <;> simp [Err.zero, termErrorCode]

theorem constructError_ne_zero {rows cols : Nat} {l : ArrayLengths} {ps : List ElementSpec} {err : Err}
    (h : constructError rows cols l ps = some err) : err ≠ Err.zero := by
  unfold constructError at h
  split_ifs at h <;> cases h <;> simp [Err.zero]

/-! ### The sequencer under each change -/

theorem SequencerSound.constructed_eq_false {s : State} (h : SequencerSound s)
    (hm : s.mustConstruct = true) : s.constructed = false := by
  obtain ⟨-, -, hc⟩ := h.awaiting hm
  exact hc

theorem SequencerSound.err_of_atRest {s : State} (h : SequencerSound s) (hs : s.atRest = true) :
    s.err = Err.zero := by
  rw [atRest_iff] at hs
  refine h.errAgrees.2 fun hrej => ?_
  rw [hrej] at hs
  simp at hs

/-- A rejection keeps the sequencer sound (R151). -/
theorem SequencerSound.reject {s : State} (h : SequencerSound s) {err : Err} (herr : err ≠ Err.zero) :
    SequencerSound (s.reject err) where
  streamLegal := h.streamLegal
  pcBound := h.pcBound
  running := by simp
  ended := by simp
  errAgrees := by simp [herr]
  awaiting := fun hm => ⟨by simp, by simp, h.constructed_eq_false hm⟩

theorem SequencerSound.toReset (s : State) : SequencerSound s.toReset where
  streamLegal := by simp
  pcBound := Nat.zero_le _
  running := by simp
  ended := by simp
  errAgrees := by simp
  awaiting := fun _ => ⟨by simp, by simp, s.toReset_constructed⟩

/-- Load of a legal stream keeps the sequencer sound (R163). -/
theorem SequencerSound.takeStream {s : State} (h : SequencerSound s) (hs : s.atRest = true)
    {error : Option Err} {ws : List OpWord} (herr : ∀ err, error = some err → err ≠ Err.zero)
    (hws : error = none → ∀ w ∈ ws, legalWord w = true) : SequencerSound (s.takeStream error ws) := by
  obtain ⟨he, ht⟩ | ⟨err, he, ht⟩ := takeStream_cases error ws s <;> rw [ht]
  · exact {
      streamLegal := hws he
      pcBound := Nat.zero_le _
      running := by simp
      ended := by simp
      errAgrees := by simp [h.err_of_atRest hs]
      awaiting := fun hm => ⟨by simp, by simp, h.constructed_eq_false hm⟩ }
  · exact h.reject (herr err he)

/-- The end of a run keeps the sequencer sound: pc is at LEN, or there is a word to go (R27, R160). -/
theorem sequencerSound_endRun {s : State} (hlegal : ∀ w ∈ s.stream.getD [], legalWord w = true)
    (hpc : s.pc ≤ s.len) (hs : s.status = .running) (herr : s.err = Err.zero)
    (hm : s.mustConstruct = false) : SequencerSound s.endRun := by
  rw [State.endRun_eq]
  by_cases hend : s.len ≤ s.pc
  · exact {
      streamLegal := hlegal
      pcBound := hpc
      running := by simp [hs, hend]
      ended := fun _ => Nat.le_antisymm hpc hend
      errAgrees := by simp [hs, hend, herr]
      awaiting := by simp [hm] }
  · exact {
      streamLegal := hlegal
      pcBound := hpc
      running := fun _ => Nat.lt_of_not_le hend
      ended := by simp [hs, hend]
      errAgrees := by simp [hs, hend, herr]
      awaiting := by simp [hm] }

theorem SequencerSound.start {s : State} (h : SequencerSound s) (hs : s.atRest = true)
    (hm : s.mustConstruct = false) :
    SequencerSound ({ s with pc := 0, status := .running } : State).endRun :=
  sequencerSound_endRun h.streamLegal (Nat.zero_le _) rfl (h.err_of_atRest hs) hm

/-- An operation of a run keeps the sequencer sound. -/
theorem SequencerSound.operation {s : State} (h : SequencerSound s) (hs : s.status = .running) (i : Instr) :
    SequencerSound (s.answerStatus.lockstep (readsOf i) (bodyOf i)).endRun := by
  refine sequencerSound_endRun ?_ ?_ ?_ ?_ ?_
  · simpa using h.streamLegal
  · simpa [State.len] using h.running hs
  · simpa using hs
  · simpa using h.errAgrees.2 (by simp [hs])
  · simpa using fun hm => (h.awaiting hm).1 hs

/-- Nothing of the sequencer changed, and no element its identity. -/
theorem SequencerSound.of_sameGrid {s t : State} (h : SequencerSound s) (hg : SameGrid s t)
    (hst : t.stream = s.stream) (hpc : t.pc = s.pc) (hs : t.status = s.status) (he : t.err = s.err)
    (hm : t.mustConstruct = s.mustConstruct) : SequencerSound t := by
  have hlen : t.len = s.len := by rw [State.len, State.len, hst]
  constructor
  · rw [hst]; exact h.streamLegal
  · rw [hpc, hlen]; exact h.pcBound
  · rw [hs, hpc, hlen]; exact h.running
  · rw [hs, hpc, hlen]; exact h.ended
  · rw [he, hs]; exact h.errAgrees
  · rw [hm, hs, hg.constructed]; exact h.awaiting

/-! ### New elements: Reset and Construct -/

/-- Elements made one after another draw the next seeds in order (log 23). -/
theorem map_seed_mapIdx {α : Type} {make : Nat → α → Element} (hmake : ∀ n a, (make n a).seed = n)
    (n : Nat) (l : List α) :
    (l.mapIdx (fun k a => make (n + k) a)).map Element.seed = List.range' n l.length := by
  apply List.ext_getElem <;> simp [hmake]

/-- New elements have fresh and distinct seeds. -/
theorem seeds_of_mapIdx {α : Type} {make : Nat → α → Element} (hmake : ∀ n a, (make n a).seed = n)
    (n : Nat) (l : List α) :
    (∀ e ∈ l.mapIdx (fun k a => make (n + k) a), e.seed < n + l.length) ∧
      ((l.mapIdx (fun k a => make (n + k) a)).map Element.seed).Nodup := by
  have hmap := map_seed_mapIdx hmake n l
  constructor
  · exact forall_mem_of_map_eq (g := id) (by rw [hmap, List.map_id]) (P := fun x => x < n + l.length)
      fun x hx => (List.mem_range'_1.1 hx).2
  · rw [hmap]; exact List.nodup_range'

/-- Reset keeps the grid and the host's names for its elements (log 5). -/
theorem GridSound.toReset {s : State} (h : GridSound s) : GridSound s.toReset := by
  have hids : s.toReset.elems.map (fun e => (e.row, e.col)) = s.elems.map (fun e => (e.row, e.col)) := by
    apply List.ext_getElem <;> simp
  obtain ⟨hfresh, hdistinct⟩ := seeds_of_mapIdx (make := fun n (e : Element) => Element.blank e.row e.col n)
    (fun _ _ => rfl) s.draws s.elems
  refine ⟨?_, ?_, ?_, .inr ?_, hfresh, hdistinct⟩
  · simpa using h.gridSize
  · exact forall_mem_of_map_eq hids (P := fun x => x.1.toNat < s.rows ∧ x.2.toNat < s.cols) h.insideGrid
  · rw [hids]; exact h.identities
  · simpa [State.constructed] using s.toReset_constructed

/-- What the check CE_GRID leaves (R148). -/
theorem gridOk_iff {rows cols : Nat} {ps : List ElementSpec} :
    gridOk rows cols ps = true ↔
      (1 ≤ rows ∧ rows ≤ Config.maxGrid ∧ 1 ≤ cols ∧ cols ≤ Config.maxGrid) ∧
        ps.length = rows * cols ∧ (∀ p ∈ ps, p.row < rows ∧ p.col < cols) ∧
        (ps.map (fun p => (p.row, p.col))).Nodup := by
  simp [gridOk, and_assoc]

theorem gridOk_of_constructError {rows cols : Nat} {l : ArrayLengths} {ps : List ElementSpec}
    (h : constructError rows cols l ps = none) : gridOk rows cols ps = true := by
  unfold constructError at h
  split_ifs at h with hg
  simpa using hg

/-- A coordinate inside a grid of at most 65535 rows or columns fits 16 bits (R25). -/
theorem toNat_coordinate {n bound : Nat} (hn : n < bound) (hb : bound ≤ Config.maxGrid) :
    (BitVec.ofNat 16 n).toNat = n := by
  unfold Config.maxGrid at hb
  rw [BitVec.toNat_ofNat, Nat.mod_eq_of_lt (by omega)]

/-- A grid that Construct makes is sound (R148, R156, R163). -/
theorem gridSound_construct {rows cols : Nat} {l : ArrayLengths} {ps : List ElementSpec} {s t : State}
    (hok : constructError rows cols l ps = none)
    (helems : t.elems = ps.mapIdx (fun k p => newElement (s.draws + k) p)) (hrows : t.rows = rows)
    (hcols : t.cols = cols) (hdraws : t.draws = s.draws + ps.length) : GridSound t := by
  obtain ⟨⟨hr₁, hr₂, hc₁, hc₂⟩, hlen, hin, hnodup⟩ := gridOk_iff.1 (gridOk_of_constructError hok)
  have hids : t.elems.map (fun e => (e.row, e.col)) =
      ps.map (fun p => (BitVec.ofNat 16 p.row, BitVec.ofNat 16 p.col)) := by
    rw [helems]; apply List.ext_getElem <;> simp [newElement]
  obtain ⟨hfresh, hdistinct⟩ := seeds_of_mapIdx (make := newElement) (fun _ _ => rfl) s.draws ps
  refine ⟨?_, ?_, ?_, .inl ?_, ?_, ?_⟩
  · rw [hrows, hcols, helems, List.length_mapIdx]; exact ⟨⟨hr₁, hr₂⟩, ⟨hc₁, hc₂⟩, hlen⟩
  · rw [hrows, hcols]
    refine forall_mem_of_map_eq hids (P := fun x => x.1.toNat < rows ∧ x.2.toNat < cols) fun p hp => ?_
    rw [toNat_coordinate (hin p hp).1 hr₂, toNat_coordinate (hin p hp).2 hc₂]
    exact hin p hp
  · rw [hids]
    refine List.Nodup.map_on (fun p hp q hq heq => ?_) (List.Nodup.of_map _ hnodup)
    obtain ⟨hrow, hcol⟩ := Prod.mk.inj heq
    refine List.inj_on_of_nodup_map hnodup hp hq (Prod.ext ?_ ?_)
    · simpa only [toNat_coordinate (hin p hp).1 hr₂, toNat_coordinate (hin q hq).1 hr₂] using
        congrArg BitVec.toNat hrow
    · simpa only [toNat_coordinate (hin p hp).2 hc₂, toNat_coordinate (hin q hq).2 hc₂] using
        congrArg BitVec.toNat hcol
  · rw [helems]
    simp only [List.mem_mapIdx]
    rintro _ ⟨k, hk, rfl⟩
    rfl
  · rw [helems, hdraws]; exact hfresh
  · rw [helems]; exact hdistinct

/-! ### Every step -/

theorem sameGrid_reject (err : Err) (s : State) : SameGrid s (s.reject err) :=
  sameGrid_of_elems rfl rfl rfl rfl

theorem State.Inv.takeStream {s : State} (h : s.Inv) (hs : s.atRest = true) {error : Option Err}
    {ws : List OpWord} (herr : ∀ err, error = some err → err ≠ Err.zero)
    (hws : error = none → ∀ w ∈ ws, legalWord w = true) : (s.takeStream error ws).Inv := by
  obtain ⟨hg, hq⟩ := (inv_iff s).1 h
  refine (inv_iff _).2 ⟨?_, hq.takeStream hs herr hws⟩
  obtain ⟨-, ht⟩ | ⟨err, -, ht⟩ := takeStream_cases error ws s <;> rw [ht]
  · exact hg.of_sameGrid (sameGrid_of_elems rfl rfl rfl rfl)
  · exact hg.of_sameGrid (sameGrid_reject err s)

theorem State.Inv.construct {s : State} (h : s.Inv) (hs : s.atRest = true) (rows cols : Nat)
    (l : ArrayLengths) (ps : List ElementSpec) : (s.construct rows cols l ps).Inv := by
  obtain ⟨hg, hq⟩ := (inv_iff s).1 h
  obtain ⟨hok, ht⟩ | ⟨err, herr, ht⟩ := construct_cases rows cols l ps s <;> rw [ht]
  · refine (inv_iff _).2 ⟨gridSound_construct (s := s) hok rfl rfl rfl rfl, ?_⟩
    exact {
      streamLegal := hq.streamLegal
      pcBound := hq.pcBound
      running := by simp
      ended := by simp
      errAgrees := by simp [hq.err_of_atRest hs]
      awaiting := by simp }
  · exact (inv_iff _).2 ⟨hg.of_sameGrid (sameGrid_reject err s), hq.reject (constructError_ne_zero herr)⟩

theorem State.Inv.start {s : State} (h : s.Inv) (hs : s.atRest = true) (hm : s.mustConstruct = false) :
    ({ s with pc := 0, status := .running } : State).endRun.Inv := by
  obtain ⟨hg, hq⟩ := (inv_iff s).1 h
  exact (inv_iff _).2 ⟨hg.of_sameGrid (sameGrid_of_elems (by simp) (by simp) (by simp) (by simp)),
    hq.start hs hm⟩

theorem State.Inv.hostWrite {s : State} (h : s.Inv) (row col : Half) (array : ArrayName) (j : Nat)
    (v : Half) :
    ({ s with
      elems := s.elems.map (fun e => if e.isAt row col then e.hostWrite array j v else e) } : State).Inv := by
  obtain ⟨hg, hq⟩ := (inv_iff s).1 h
  have hsame : SameGrid s { s with
      elems := s.elems.map (fun e => if e.isAt row col then e.hostWrite array j v else e) } :=
    ⟨rfl, rfl, rfl, map_tag_map (tag_hostWrite row col array j v) _⟩
  exact (inv_iff _).2 ⟨hg.of_sameGrid hsame, hq.of_sameGrid hsame rfl rfl rfl rfl rfl⟩

/-- Every action of the host keeps the invariant (R163). -/
theorem State.Inv.hostAct {s t : State} (h : s.Inv) {a : HostAction} {r : HostReply}
    (hact : s.hostAct a = some (r, t)) : t.Inv := by
  obtain rfl | ⟨-, -, rfl⟩ | ⟨rows, cols, l, ps, -, hs, -, rfl⟩ | ⟨ws, -, hs, rfl⟩ | ⟨is, -, hs, rfl⟩ |
    ⟨row, col, array, j, v, -, -, -, rfl⟩ | ⟨-, hs, -, hm, rfl⟩ := hostAct_cases hact
  · exact h
  · exact (inv_iff _).2 ⟨((inv_iff s).1 h).1.toReset, SequencerSound.toReset s⟩
  · exact h.construct hs rows cols l ps
  · exact h.takeStream hs (fun _ => firstIllegalWord_ne_zero) firstIllegalWord_none.1
  · refine h.takeStream hs (fun _ => firstTermError_ne_zero) fun hnone => ?_
    exact List.forall_mem_map.2 fun i hi => legalWord_encode (firstTermError_none.1 hnone i hi)
  · exact h.hostWrite row col array j v
  · exact h.start hs hm

/-- Every operation of a run keeps the invariant (R27, R127). -/
theorem State.Inv.operation {s : State} (h : s.Inv) (hs : s.status = .running) (i : Instr) :
    (s.answerStatus.lockstep (readsOf i) (bodyOf i)).endRun.Inv := by
  obtain ⟨hg, hq⟩ := (inv_iff s).1 h
  refine (inv_iff _).2 ⟨hg.of_sameGrid ⟨by simp, by simp, by simp, ?_⟩, hq.operation hs i⟩
  rw [State.endRun_elems, State.lockstep_elems, State.answerStatus_elems]
  exact map_tag_map (tag_operation i _) _

/-- Settles O43: a step of a run is an operation, and at rest a step is an action of the host; the queue and
the replies are no part of the invariant. -/
theorem stepKeepsInvariant : Obligations.StepKeepsInvariant := by
  intro s t h hstep
  obtain ⟨hs, -⟩ | ⟨-, a, rest, r, u, -, hact, rfl⟩ := step_next hstep
  · obtain ⟨i, -, hnext⟩ := step_of_inv_running h hs
    obtain rfl : _ = t := Host.Outcome.next.inj (hnext.symm.trans hstep)
    exact h.operation hs i
  · have hserved : ({ s with pending := rest } : State).Inv := { h with }
    exact { hserved.hostAct hact with }

end Sys2Proof.Machine
end

section
/-! PROOF. The memory of an element: half-word and slot accesses see each other's writes (20_memory.md R41,
R43, R55), and an operation sees the memory of its own element alone (10_state.md R51; 60_exceptions.md R156,
R157). -/

namespace Sys2Proof.Machine

/-! ### Half-words and slots -/

/-- The pair that half-word writes of both entries of `Cd[i]` leave there. -/
theorem Element.slot_writeCtr_writeCtr (e : Element) {i : Nat} (hi : i < 4) (a b : Half) :
    ((e.writeCtr (2 * i) a).writeCtr (2 * i + 1) b).slot (4 + i) = ⟨a, b⟩ := by
  have hlow : 2 * (4 + i) + 1 = 8 + (2 * i + 1) ∧ 2 * i + 1 < 8 := by omega
  have hother : ¬ (2 * (4 + i) = 8 + (2 * i + 1) ∧ 2 * i + 1 < 8) := by omega
  have hhigh : 2 * (4 + i) = 8 + 2 * i ∧ 2 * i < 8 := by omega
  simp only [Element.slot, Element.half_writeCtr, if_pos hlow, if_neg hother, if_pos hhigh]

/-- A slot read after a write of `Wd[i]` gives the word written. -/
theorem Element.slot_setWd_self (e : Element) {i : Nat} (hi : i < 4) (x : Word32) :
    (e.setWd i x).slot i = x := by
  rw [Element.slot_setWd e hi, if_pos rfl]

/-- A slot read after a write of `Kd[i]` gives the word written. -/
theorem Element.slot_setKd_self (e : Element) {i : Nat} (hi : i < 5) (x : Word32) :
    (e.setKd i x).slot (8 + i) = x := by
  rw [Element.slot_setKd e hi, if_pos rfl]

/-- Settles O38: a slot read is the pair of its two half-word reads, so the slot read after a slot write gives
both of them; and two half-word writes are a slot write in W and in KS. -/
theorem mixedWidths : Obligations.MixedWidths := by
  refine ⟨fun e i x hi => ?_, fun e i a b hi => e.slot_setWd_self hi ⟨a, b⟩,
    fun e i a b hi => e.slot_writeCtr_writeCtr hi a b, fun e i x hi => ?_,
    fun e i a b hi => e.slot_setKd_self hi ⟨a, b⟩⟩
  · have hslot := e.slot_setWd_self hi x
    exact ⟨congrArg Word32.hi hslot, congrArg Word32.lo hslot⟩
  · have hplace : 16 + 2 * i = 2 * (8 + i) := by omega
    have hslot := e.slot_setKd_self hi x
    rw [hplace]
    exact ⟨congrArg Word32.hi hslot, congrArg Word32.lo hslot⟩

/-! ### Isolation -/

/-- Settles O35: the element at a place after an operation is a function of the element there before it and
of pc. -/
theorem elementsAreIsolated : Obligations.ElementsAreIsolated := by
  intro i s₁ s₂ t₁ t₂ k₁ k₂ h₁ h₂ hpc he
  rw [exec_getElem h₁, exec_getElem h₂, hpc, he]

end Sys2Proof.Machine
end

section
/-! PROOF. The host's writes: which entries they reach, what they leave, and that HostRead gives back what was
written (20_memory.md R56; 60_exceptions.md R163). -/

namespace Sys2Proof.Machine

open Sys2Proof.Claims

/-! ### When HostWrite is allowed -/

theorem Element.isAt_iff (row col : Half) (e : Element) :
    e.isAt row col = true ↔ e.row = row ∧ e.col = col := by
  simp [Element.isAt]

/-- What HostWrite makes of each element of the grid: the one it names is written, the others stay. -/
def Element.hostWriteAt (row col : Half) (array : ArrayName) (j : Nat) (v : Half) (e : Element) : Element :=
  if e.isAt row col then e.hostWrite array j v else e

/-- HostWrite where it is allowed: at rest, to a writable entry of an element of the grid (R163). -/
theorem hostAct_hostWrite {s : State} {row col : Half} {array : ArrayName} {j : Nat} (v : Half)
    (hrest : s.atRest = true) (hw : hostWritable array j = true)
    (he : ∃ e ∈ s.elems, e.isAt row col = true) :
    s.hostAct (.hostWrite row col array j v) =
      some (.ack, { s with elems := s.elems.map (Element.hostWriteAt row col array j v) }) := by
  have hany : s.elems.any (Element.isAt row col) = true := List.any_eq_true.2 he
  simp only [State.hostAct, hrest, hw, hany, Bool.and_self, if_true]
  rfl

/-- HostWrite to an entry that is not the host's has no step, in any state (R56). -/
theorem hostAct_hostWrite_of_not_writable (s : State) (row col : Half) {array : ArrayName} {j : Nat} (v : Half)
    (hw : hostWritable array j = false) : s.hostAct (.hostWrite row col array j v) = none := by
  simp [State.hostAct, hw]

/-- Settles O56: neither W nor an entry from index 8 on is writable by the host. -/
theorem hostNeverWritesWorkingOrParity : Obligations.HostNeverWritesWorkingOrParity := by
  intro s row col j v
  refine ⟨hostAct_hostWrite_of_not_writable s row col v rfl, fun hj => ?_⟩
  have hbeyond : decide (j < 8) = false := decide_eq_false (by omega)
  exact ⟨hostAct_hostWrite_of_not_writable s row col v hbeyond,
    hostAct_hostWrite_of_not_writable s row col v hbeyond⟩

/-! ### What HostWrite writes -/

/-- The entry of the flat numbering that the host names `array[j]` is written, no other (R42, R56). -/
theorem hostWrite_entry {array : ArrayName} {j : Nat} (harray : array = .ctr ∨ array = .ks) (hj : j < 8)
    (v : Half) (e : Element) (h : Nat) :
    (e.hostWrite array j v).entry h =
      if h = (if array = .ctr then 8 else 16) + j then ⟨v, true⟩ else e.entry h := by
  obtain rfl | rfl := harray
  · simp [Element.hostWrite, Element.entry_writeCtr, hj]
  · simp [Element.hostWrite, Element.entry_writeKs, show j < 10 by omega]

/-- The element the host names changes in the one entry written (R56). -/
theorem hostWrite_becomes {array : ArrayName} {j : Nat} (harray : array = .ctr ∨ array = .ks) (hj : j < 8)
    (v : Half) (e : Element) :
    Becomes [((if array = .ctr then 8 else 16) + j, v)] e (e.hostWrite array j v) := by
  obtain ⟨hrow, hcol, hident, -, -, -, hseed⟩ := hostWrite_keeps array j v e
  refine ⟨fun p hp => ?_, fun h hh => ?_, hrow, hcol, hident, hseed⟩
  · obtain rfl := List.mem_singleton.1 hp
    rw [hostWrite_entry harray hj, if_pos rfl]
  · rw [hostWrite_entry harray hj, if_neg (fun heq => hh (List.mem_singleton.2 heq))]

/-- The entry as HostRead names it, after a HostWrite of it. -/
theorem hostWrite_arrayEntry {array : ArrayName} {j : Nat} (harray : array = .ctr ∨ array = .ks) (hj : j < 8)
    (v : Half) (e : Element) : (e.hostWrite array j v).arrayEntry array j = some ⟨v, true⟩ := by
  obtain rfl | rfl := harray
  · simp [Element.hostWrite, Element.arrayEntry, hj]
  · simp [Element.hostWrite, Element.arrayEntry, show j < 10 by omega]

/-- HostWrite leaves the identities, so the host finds the same element after it. -/
theorem isAt_hostWriteAt (row col : Half) (array : ArrayName) (j : Nat) (v : Half) :
    Element.isAt row col ∘ Element.hostWriteAt row col array j v = Element.isAt row col := by
  funext e
  obtain ⟨hrow, hcol, -⟩ := hostWrite_keeps array j v e
  simp only [Function.comp_apply, Element.hostWriteAt]
  split
  · simp only [Element.isAt, hrow, hcol]
  · rfl

/-- The element that HostRead finds after a HostWrite is one that was written. -/
theorem find?_hostWriteAt {es : List Element} {row col : Half} (he : ∃ e ∈ es, e.isAt row col = true)
    (array : ArrayName) (j : Nat) (v : Half) :
    ∃ e : Element, (es.map (Element.hostWriteAt row col array j v)).find? (Element.isAt row col) =
      some (e.hostWrite array j v) := by
  obtain ⟨e, hfind⟩ := Option.isSome_iff_exists.1 (List.find?_isSome.2 he)
  have hat : e.isAt row col = true := List.find?_some hfind
  refine ⟨e, ?_⟩
  rw [List.find?_map, isAt_hostWriteAt, hfind, Option.map_some, Element.hostWriteAt, if_pos hat]

/-- HostRead at rest of an entry that an element of that identity holds, written (R163). -/
theorem hostAct_hostRead_written {s : State} {row col : Half} {array : ArrayName} {j : Nat} {v : Half}
    {e : Element} (hrest : s.atRest = true) (hfind : s.elems.find? (Element.isAt row col) = some e)
    (hentry : e.arrayEntry array j = some ⟨v, true⟩) :
    s.hostAct (.hostRead row col array j) = some (.entry (some v), s) := by
  simp [State.hostAct, hrest, hfind, hentry, Entry.hostValue]

/-- Settles O55: HostWrite maps over the grid, and the element HostRead finds in the result is a written one. -/
theorem hostWriteThenRead : Obligations.HostWriteThenRead := by
  intro s row col array j v hs harray hj hexists
  have hrest : s.atRest = true := (atRest_iff s).2 hs
  have hw : hostWritable array j = true := by obtain rfl | rfl := harray <;> exact decide_eq_true hj
  have he : ∃ e ∈ s.elems, e.isAt row col = true := by simpa only [Element.isAt_iff] using hexists
  obtain ⟨e, hfind⟩ := find?_hostWriteAt he array j v
  refine ⟨_, hostAct_hostWrite v hrest hw he,
    hostAct_hostRead_written hrest hfind (hostWrite_arrayEntry harray hj v e), rfl, by simp [SequencerKept], ?_⟩
  rw [List.forall₂_map_right_iff, List.forall₂_same]
  intro e _
  obtain ⟨-, -, -, -, htrace, hfault, -⟩ := hostWrite_keeps array j v e
  rw [← Element.isAt_iff, Element.hostWriteAt]
  refine ⟨fun hat => ?_, fun hnot => if_neg hnot⟩
  rw [if_pos hat]
  exact ⟨hostWrite_becomes harray hj v e, htrace, hfault⟩

end Sys2Proof.Machine
end

section
/-! PROOF. Decoding and encoding are inverse on the legal words and operations (30_encoding.md R62, R70, R72,
R73). -/

namespace Sys2Proof

/-- Settles O1: the decoder's fields are the encoder's, format by format (`decode_encode`). -/
theorem decodeOfEncode : Obligations.DecodeOfEncode := fun _ hi => decode_encode hi

/-! ### A word is its fields put together, one rule per format (R62) -/

theorem ofNat_of_eq_toNat {w : OpWord} {n : Nat} (h : n = w.toNat) : BitVec.ofNat 16 n = w := by
  rw [h, BitVec.ofNat_toNat, BitVec.setWidth_eq]

theorem wordField_val (w : OpWord) (lo : Nat) : (wordField w lo).val = bitField w (lo + 1) lo % 4 := rfl

theorem encodeR_of_fields {w : OpWord} {op : Nat} (hop : bitField w 15 12 = op) (hz : bitField w 1 0 = 0) :
    encodeR op (wordField w 10) (bitField w 9 6) (bitField w 5 2) = w := by
  have hw := w.isLt
  refine ofNat_of_eq_toNat ?_
  simp only [wordField_val, bitField, Nat.reducePow, Nat.reduceAdd, Nat.reduceSub] at *
  omega

theorem encodeS_of_fields {w : OpWord} {op : Nat} (hop : bitField w 15 12 = op) (hz : bitField w 5 5 = 0) :
    encodeS op (wordField w 10) (bitField w 9 6) (bitField w 4 0) = w := by
  have hw := w.isLt
  refine ofNat_of_eq_toNat ?_
  simp only [wordField_val, bitField, Nat.reducePow, Nat.reduceAdd, Nat.reduceSub] at *
  omega

theorem encodeM_of_fields {w : OpWord} {op : Nat} (hop : bitField w 15 12 = op) (hz : bitField w 7 5 = 0) :
    encodeM op (wordField w 10) (wordField w 8) (bitField w 4 0) = w := by
  have hw := w.isLt
  refine ofNat_of_eq_toNat ?_
  simp only [wordField_val, bitField, Nat.reducePow, Nat.reduceAdd, Nat.reduceSub] at *
  omega

/-- Formats N and Z: the number k or the selector, on `m` bits, below the zero bits. -/
theorem encodeN_of_fields {w : OpWord} {op m : Nat} (hm : m ∈ [3, 4]) (hop : bitField w 15 12 = op)
    (hz : bitField w 11 (m + 1) = 0) : encodeN op (bitField w m 0) = w := by
  have hw := w.isLt
  refine ofNat_of_eq_toNat ?_
  simp only [List.mem_cons, List.not_mem_nil, or_false] at hm
  obtain rfl | rfl := hm <;>
  · simp only [bitField, Nat.reducePow, Nat.reduceAdd, Nat.reduceSub] at *
    omega

/-! ### The two checks of a format: its zero bits, then its ranges (R71) -/

theorem checks_ok {P Q : Prop} [Decidable P] [Decidable Q] {e e' : DecodeError} {i j : Instr}
    (h : (if P then .error e else if Q then .error e' else .ok i) = Except.ok j) : ¬ P ∧ ¬ Q ∧ j = i := by
  split_ifs at h with hP hQ
  injection h with h
  exact ⟨hP, hQ, h.symm⟩

theorem checks_error_iff {P Q : Prop} [Decidable P] [Decidable Q] (e e' : DecodeError) (i : Instr) :
    (∃ x, (if P then .error e else if Q then .error e' else .ok i) = Except.error x) ↔ P ∨ Q := by
  split_ifs with hP hQ
  · exact iff_of_true ⟨e, rfl⟩ (.inl hP)
  · exact iff_of_true ⟨e', rfl⟩ (.inr hQ)
  · simp [hP, hQ]

/-! ### The fields of an accepted word -/

theorem decodeR_fields {mk : Fin 4 → Nat → Nat → Instr} {w : OpWord} {i : Instr} (h : decodeR mk w = .ok i) :
    bitField w 1 0 = 0 ∧ i = mk (wordField w 10) (bitField w 9 6) (bitField w 5 2) :=
  (checks_ok h).imp not_not.1 And.right

theorem decodeI_fields {mk : Fin 4 → Nat → Nat → Instr} {w : OpWord} {i : Instr} (h : decodeI mk w = .ok i) :
    bitField w 1 0 = 0 ∧ i = mk (wordField w 10) (bitField w 9 6) (bitField w 5 2) :=
  (checks_ok h).imp not_not.1 And.right

theorem decodeS_fields {mk : Fin 4 → Nat → Nat → Instr} {w : OpWord} {i : Instr} (h : decodeS mk w = .ok i) :
    bitField w 5 5 = 0 ∧ i = mk (wordField w 10) (bitField w 9 6) (bitField w 4 0) :=
  (checks_ok h).imp not_not.1 And.right

theorem decodeM_fields {mk : Fin 4 → Fin 4 → Nat → Instr} {w : OpWord} {i : Instr}
    (h : decodeM mk w = .ok i) :
    bitField w 7 5 = 0 ∧ i = mk (wordField w 10) (wordField w 8) (bitField w 4 0) :=
  (checks_ok h).imp not_not.1 And.right

theorem decodeN_fields {mk : Nat → Instr} {limit : Nat} {w : OpWord} {i : Instr}
    (h : decodeN mk limit w = .ok i) : bitField w 11 5 = 0 ∧ i = mk (bitField w 4 0) :=
  (checks_ok h).imp not_not.1 And.right

/-- An operation of format Z is encoded with the selector it was read from. -/
theorem decodeZ_fields {w : OpWord} {i : Instr} (h : decodeZ w = .ok i) :
    bitField w 11 4 = 0 ∧ encode i = encodeN 8 (bitField w 3 0) := by
  unfold decodeZ at h
  split_ifs at h with hz
  refine ⟨not_not.1 hz, ?_⟩
  split at h <;> rename_i hsub
  case h_5 => cases h
  all_goals injection h with h; rw [hsub, ← h, encode]

/-- The word of a decoded operation is the word it was decoded from (R73). -/
theorem encode_of_decode {w : OpWord} {i : Instr} (h : decode w = .ok i) : encode i = w := by
  unfold decode at h
  split at h <;> rename_i hop
  · obtain ⟨hz, rfl⟩ := decodeR_fields h; exact encodeR_of_fields hop hz
  · obtain ⟨hz, rfl⟩ := decodeI_fields h; exact encodeR_of_fields hop hz
  · obtain ⟨hz, rfl⟩ := decodeR_fields h; exact encodeR_of_fields hop hz
  · obtain ⟨hz, rfl⟩ := decodeS_fields h; exact encodeS_of_fields hop hz
  · obtain ⟨hz, rfl⟩ := decodeM_fields h; exact encodeM_of_fields hop hz
  · obtain ⟨hz, rfl⟩ := decodeN_fields h; exact encodeN_of_fields (by simp) hop hz
  · obtain ⟨hz, rfl⟩ := decodeN_fields h; exact encodeN_of_fields (by simp) hop hz
  · obtain ⟨hz, he⟩ := decodeZ_fields h; exact he.trans (encodeN_of_fields (by simp) hop hz)
  · obtain ⟨hz, rfl⟩ := decodeN_fields h; exact encodeN_of_fields (by simp) hop hz
  · cases h

/-- Settles O2: the operands read are in range, and put together they are the word. -/
theorem encodeOfDecode : Obligations.EncodeOfDecode := fun _ _ h => ⟨decode_wellFormed h, encode_of_decode h⟩

/-- Settles O4: each word decoded. -/
theorem workedEncodingsDecode : Obligations.WorkedEncodingsDecode := by
  unfold Obligations.WorkedEncodingsDecode
  decide

end Sys2Proof
end

section
/-! PROOF. The reserved words: the decoder refuses exactly those of R71, Load rejects a stream that holds one,
and neither they nor a refused term are executed (30_encoding.md R71; 93_implementation_defined.md U2). -/

namespace Sys2Proof.Machine

open Sys2Proof.Claims

/-! ### What each format refuses -/

theorem decodeR_error_iff (mk : Fin 4 → Nat → Nat → Instr) (w : OpWord) :
    (∃ e, decodeR mk w = .error e) ↔ bitField w 1 0 ≠ 0 ∨ 12 < bitField w 9 6 ∨ 12 < bitField w 5 2 :=
  checks_error_iff _ _ _

theorem decodeI_error_iff (mk : Fin 4 → Nat → Nat → Instr) (w : OpWord) :
    (∃ e, decodeI mk w = .error e) ↔ bitField w 1 0 ≠ 0 ∨ 12 < bitField w 9 6 :=
  checks_error_iff _ _ _

theorem decodeS_error_iff (mk : Fin 4 → Nat → Nat → Instr) (w : OpWord) :
    (∃ e, decodeS mk w = .error e) ↔ bitField w 5 5 ≠ 0 ∨ 12 < bitField w 9 6 :=
  checks_error_iff _ _ _

theorem decodeM_error_iff (mk : Fin 4 → Fin 4 → Nat → Instr) (w : OpWord) :
    (∃ e, decodeM mk w = .error e) ↔ bitField w 7 5 ≠ 0 ∨ wordField w 10 = wordField w 8 :=
  checks_error_iff _ _ _

theorem decodeN_error_iff (mk : Nat → Instr) (limit : Nat) (w : OpWord) :
    (∃ e, decodeN mk limit w = .error e) ↔ bitField w 11 5 ≠ 0 ∨ limit < bitField w 4 0 :=
  checks_error_iff _ _ _

theorem decodeZ_error_iff (w : OpWord) :
    (∃ e, decodeZ w = .error e) ↔ bitField w 11 4 ≠ 0 ∨ 3 < bitField w 3 0 := by
  unfold decodeZ
  split_ifs with hz
  · simp_all
  · split <;> simp_all; omega

theorem wordField_eq_iff (w : OpWord) (lo lo' : Nat) :
    wordField w lo = wordField w lo' ↔ bitField w (lo + 1) lo % 4 = bitField w (lo' + 1) lo' % 4 := by
  rw [Fin.ext_iff, wordField_val, wordField_val]

theorem bitField_opcode (w : OpWord) : bitField w 15 12 = w.toNat / 4096 := by
  have hw := w.isLt
  simp only [bitField, Nat.reducePow, Nat.reduceAdd, Nat.reduceSub]
  omega

/-- A source field that names no slot (R64). -/
theorem mem_reservedSlots_iff (n : Nat) : n % 16 ∈ [13, 14, 15] ↔ 12 < n % 16 := by
  simp only [List.mem_cons, List.not_mem_nil, or_false]
  omega

/-- The decoder refuses exactly the words of R71: in each row of R70 the clauses of the other rows fall away, and in
no row clause (a) holds. -/
theorem decode_error_iff (w : OpWord) : (∃ e, decode w = .error e) ↔ Reserved w := by
  have hw := w.isLt
  unfold decode
  simp only [Reserved, mem_reservedSlots_iff, bitField_opcode]
  split <;> rename_i hop
  · rw [decodeR_error_iff]; simp [hop, bitField]
  · rw [decodeI_error_iff]; simp [hop, bitField]
  · rw [decodeR_error_iff]; simp [hop, bitField]
  · rw [decodeS_error_iff]; simp [hop, bitField]
  · rw [decodeM_error_iff]; simp [hop, bitField, wordField_eq_iff]
  · rw [decodeN_error_iff]; simp [hop, bitField]
  · rw [decodeN_error_iff]; simp [hop, bitField]
  · rw [decodeZ_error_iff]; simp [hop, bitField]
  · rw [decodeN_error_iff]; simp [hop, bitField]
  · refine iff_of_true ⟨_, rfl⟩ (Or.inl ?_)
    simp only [List.mem_cons, List.not_mem_nil, or_false, imp_false] at *
    omega

theorem legalWord_eq_false_iff (w : OpWord) : legalWord w = false ↔ Reserved w := by
  rw [← decode_error_iff, legalWord]
  cases decode w <;> simp

/-! ### Load of a stream with a reserved word (R71, R145) -/

/-- A stream that holds a reserved word holds a first one. -/
theorem exists_first_reserved {ws : List OpWord} (h : ∃ w ∈ ws, Reserved w) :
    ∃ (k : Nat) (w : OpWord), ws[k]? = some w ∧ Reserved w ∧
      ∀ j < k, ∀ v, ws[j]? = some v → ¬ Reserved v := by
  simp only [← legalWord_eq_false_iff, Bool.not_eq_false] at h ⊢
  have hlt : ws.findIdx (fun w => !legalWord w) < ws.length := by
    simpa [List.findIdx_lt_length] using h
  refine ⟨_, _, List.getElem?_eq_getElem hlt, ?_, fun j hj v hv => ?_⟩
  · simpa using List.findIdx_getElem (w := hlt)
  · obtain ⟨_, rfl⟩ := List.getElem?_eq_some_iff.1 hv
    simpa using List.not_of_lt_findIdx hj

theorem hostAct_load {s : State} (hrest : s.atRest = true) (ws : List OpWord) :
    s.hostAct (.load ws) = some (.ack, s.takeStream (firstIllegalWord 0 ws) ws) := by
  simp [State.hostAct, hrest, rotTableError_rotTable]

/-- Load rejects a stream with the index of its first reserved word. -/
theorem hostAct_load_reserved {s : State} (hrest : s.atRest = true) {ws : List OpWord} {k : Nat} {w : OpWord}
    (hk : ws[k]? = some w) (hw : Reserved w) (hfirst : ∀ j < k, ∀ v, ws[j]? = some v → ¬ Reserved v) :
    s.hostAct (.load ws) = some (.ack, s.reject ⟨.illegalOp, k⟩) := by
  have hj : ∀ j < k, ∀ v, ws[j]? = some v → legalWord v = true := by
    simpa only [← legalWord_eq_false_iff, Bool.not_eq_false] using hfirst
  rw [hostAct_load hrest, firstIllegalWord_some 0 hk ((legalWord_eq_false_iff w).2 hw) hj, Nat.zero_add,
    State.takeStream]

/-- Settles O3: the clauses of R71 are the decoder's checks, row by row, and Load answers with the first word
that meets one. -/
theorem reservedWordsAreIllegal : Obligations.ReservedWordsAreIllegal := by
  refine ⟨decode_error_iff, ?_, ?_, fun s ws hs hws => ?_⟩
  · unfold Reserved; decide
  · unfold Reserved; decide
  · obtain ⟨k, w, hk, hw, hfirst⟩ := exists_first_reserved hws
    exact ⟨k, w, hk, hw, hfirst, hostAct_load_reserved ((atRest_iff s).2 hs) hk hw hfirst⟩

/-! ### Steps and terms that stop (U2) -/

/-- Settles O24: every arm of `exec` issues its own instruction, and `issue` refuses it. -/
theorem refusedTermsNeverExecute : Obligations.RefusedTermsNeverExecute := by
  intro i e s hi
  rw [exec_eq_issue]
  exact issue_refused hi _ _ s

/-- A step of a run that fetches a reserved word stops. -/
theorem stepRun_of_error {s : State} {e : DecodeError} (h : s.fetch = some (.error e)) :
    stepRun s = .fault (.illegalWord s.pc) := by
  simp only [stepRun, h]

/-- Settles O40: the word fetched is one that the decoder refuses, also after a ReadStatus is answered. -/
theorem reservedWordIsStuck : Obligations.ReservedWordIsStuck := by
  intro s w hs hw hres
  obtain ⟨e, he⟩ := (decode_error_iff w).2 hres
  have hf : s.answerStatus.fetch = some (.error e) := by rw [State.answerStatus_fetch, fetch_of_word hw, he]
  rw [step_of_running hs, stepRun_of_error hf, State.answerStatus_pc]

end Sys2Proof.Machine
end

section
/-! PROOF. The assembler reads the lines it writes, and what the two pseudo-instructions stand for
(20_memory.md R43; 30_encoding.md R74, R75; 40_halfword_arithmetic.md R89). -/

namespace Sys2Proof.Machine

open Sys2Proof.Claims

/-! ### Lines -/

theorem slotNumber_le (a : SlotName) : slotNumber a ≤ 12 := by
  cases a <;> simp only [slotNumber] <;> omega

/-- Every slot has a name, and its number is the slot's (R43). -/
theorem slotNumber_slotNameOf {s : Nat} (hs : s ≤ 12) : slotNumber (slotNameOf s) = s := by
  unfold slotNameOf
  split_ifs <;> simp only [slotNumber] <;> omega

/-- A line of legal operations assembles to them. -/
theorem assembleLine_of_legal {m : Mnemonic} {operands : List Operand} {is : List Instr}
    (h : lineTerms m operands = some is) (hw : ∀ i ∈ is, i.WellFormed) : assembleLine m operands = some is := by
  simpa [assembleLine, h] using hw

/-- The line of a DUMP names the half whose flat index is h. -/
theorem lineTerms_lineOf_dump {h : Nat} (hh : h ≤ 25) :
    lineTerms (lineOf (.dump h)).1 (lineOf (.dump h)).2 = some [.dump h] := by
  have hslot := slotNumber_slotNameOf (s := h / 2) (by omega)
  simp only [lineOf]
  split_ifs with heven
  · simp only [lineTerms, hslot]; congr; omega
  · simp only [lineTerms, hslot]; congr; omega

/-- The line that writes a legal operation stands for it. -/
theorem lineTerms_lineOf {i : Instr} (hi : i.WellFormed) : lineTerms (lineOf i).1 (lineOf i).2 = some [i] := by
  cases i with
  | add32 d a b =>
    obtain ⟨ha, hb⟩ := Instr.wellFormed_add32.1 hi
    simp [lineOf, lineTerms, slotNumber_slotNameOf ha, slotNumber_slotNameOf hb]
  | addi32 d a imm =>
    obtain ⟨ha, -⟩ := Instr.wellFormed_addi32.1 hi
    simp [lineOf, lineTerms, slotNumber_slotNameOf ha]
  | xor32 d a b =>
    obtain ⟨ha, hb⟩ := Instr.wellFormed_xor32.1 hi
    simp [lineOf, lineTerms, slotNumber_slotNameOf ha, slotNumber_slotNameOf hb]
  | rotl32 d a amt =>
    obtain ⟨ha, -⟩ := Instr.wellFormed_rotl32.1 hi
    simp [lineOf, lineTerms, slotNumber_slotNameOf ha]
  | dump h => exact lineTerms_lineOf_dump (Instr.wellFormed_dump.1 hi)
  | _ => rfl

/-- Settles O5: the line stands for the operation, which the checks of the line accept. -/
theorem assemblerReadsItsOwnLines : Obligations.AssemblerReadsItsOwnLines := fun _ hi =>
  assembleLine_of_legal (lineTerms_lineOf hi) (by simpa using hi)

/-! ### The effect of a legal operation -/

/-- A legal operation completes, each element as its reads and its body leave it. -/
theorem completesWith_of_body {i : Instr} {P : Nat → Element → Element → Prop} {s : State} (hi : i.WellFormed)
    (hP : ∀ e ∈ s.elems, P s.pc e (bodyOf i (e.noteReads s.pc (readsOf i)))) : CompletesWith i P s := by
  refine ⟨_, exec_legal hi s, by simp, by simp [SequencerKept], ?_⟩
  rw [State.lockstep_elems, List.forall₂_map_right_iff, List.forall₂_same]
  exact hP

/-- An operation that reads `reads` and writes one working word has that effect, and no other. -/
theorem effect_setWd (reads : List Nat) (d : Fin 4) (x : Element → Word32) (pc : Nat) (e : Element) :
    Effect reads (fun e => wordAt (2 * d) (x e)) pc e ((e.noteReads pc reads).setWd d (x e)) := by
  have hentry := (e.noteReads pc reads).entry_setWd d.isLt (x e)
  refine ⟨⟨fun p hp => ?_, fun h hh => ?_, by simp, by simp, by simp, by simp⟩, by simp, ?_⟩
  · simp only [wordAt, List.mem_cons, List.not_mem_nil, or_false] at hp
    obtain rfl | rfl := hp <;> simp [hentry]
  · simp only [wordAt, List.map_cons, List.map_nil, List.mem_cons, List.not_mem_nil, or_false, not_or] at hh
    rw [hentry, if_neg hh.1, if_neg hh.2, Element.entry_noteReads]
  · simp [FaultAfter, Element.noteReads_fault]

/-- (0, 0) is the right identity of Add32 (R93): there is no carry, and each half is below 2^16. -/
theorem add32_zero (x : Word32) : add32 x Word32.zero = x := by
  have hcarry : decide (2 ^ 16 ≤ x.lo.toNat + 0) = false := decide_eq_false (Nat.not_le.2 x.lo.isLt)
  have hlo : (add32 x Word32.zero).lo = x.lo :=
    BitVec.eq_of_toNat_eq ((add32_lo_toNat x _).trans (Nat.mod_eq_of_lt x.lo.isLt))
  have hhi : (add32 x Word32.zero).hi = x.hi := by
    apply BitVec.eq_of_toNat_eq
    rw [add32_hi_toNat, show Word32.zero.lo.toNat = 0 from rfl, hcarry]
    exact Nat.mod_eq_of_lt x.hi.isLt
  exact congrArg₂ Word32.mk hhi hlo

/-- Settles O23: the lines are those of R75, and adding (0, 0) copies the slot. -/
theorem pseudoInstructions : Obligations.PseudoInstructions := by
  refine ⟨fun d a => ?_, fun a => ?_, fun s d a ha => ?_⟩
  · exact assembleLine_of_legal rfl (by simpa [Instr.wellFormed_addi32] using slotNumber_le a)
  · have := slotNumber_le a
    exact assembleLine_of_legal rfl (by simp [Instr.wellFormed_dump]; omega)
  · refine completesWith_of_body (Instr.wellFormed_addi32.2 ⟨ha, Nat.zero_le _⟩) fun e _ => ?_
    have hcopy : add32 (e.slot a) (scalarWord 0) = e.slot a := add32_zero _
    simp only [bodyOf, readsOf, Element.slot_noteReads, hcopy]
    exact effect_setWd (slotReads a) d (fun e => e.slot a) s.pc e

end Sys2Proof.Machine
end

section
/-! PROOF. The half-word functions are the functions of the 32-bit view: Add32 is the sum, Rotl32 the left rotation,
and so the laws of both (40_halfword_arithmetic.md R87, R90, R93, R94). -/

namespace Sys2Proof.Machine

/-! ### The pair and its 32-bit view (R9) -/

theorem val_inj {x y : Word32} : x.val = y.val ↔ x = y := ⟨val_injective, congrArg Word32.val⟩

/-- Bits 15..0 of the view are the low half's, bits 31..16 the high half's. -/
theorem val_getLsbD (x : Word32) (i : Nat) :
    x.val.getLsbD i = if i < 16 then x.lo.getLsbD i else x.hi.getLsbD (i - 16) := by
  simp only [Word32.val, BitVec.getLsbD_append]

@[simp] theorem val_pair (v : BitVec 32) : (Word32.pair v).val = v := by
  apply BitVec.eq_of_getLsbD_eq
  intro i hi
  rw [val_getLsbD]
  split_ifs with hlo
  · simp [Word32.pair, hlo]
  · have hhi : i - 16 < 16 := by omega
    simp [Word32.pair, hhi, Nat.add_sub_cancel' (Nat.le_of_not_lt hlo)]

/-! ### Add32 -/

/-- Add32 is the sum of the 32-bit views (R87): the carry of the low halves enters the high sum, and the carry out
of that is the multiple of 2^32 that is dropped. -/
theorem add32_val (x y : Word32) : (add32 x y).val = x.val + y.val := by
  apply BitVec.eq_of_toNat_eq
  rw [BitVec.toNat_add, val_toNat, val_toNat, val_toNat, add32_lo_toNat, add32_hi_toNat]
  have := x.lo.isLt
  have := y.lo.isLt
  by_cases hcarry : 2 ^ 16 ≤ x.lo.toNat + y.lo.toNat
  · rw [decide_eq_true hcarry, Bool.toNat_true]; omega
  · rw [decide_eq_false hcarry, Bool.toNat_false]; omega

/-- Settles O6: the halves are the two 16-bit sums, and the view is the sum of the views. -/
theorem add32IsAdditionMod32 : Obligations.Add32IsAdditionMod32 := by
  refine fun x y => ⟨add32_lo_toNat x y, ?_, ?_⟩
  · rw [add32_hi_toNat, Bool.toNat, Bool.cond_decide]
  · rw [add32_val, BitVec.toNat_add]

/-- The one word that x is completed to (0, 0) by is the pair of the negated view (R93). -/
theorem add32_eq_zero_iff (x y : Word32) : add32 x y = Word32.zero ↔ y = Word32.pair (-x.val) := by
  rw [← val_inj, ← val_inj, add32_val, val_pair]
  exact add_eq_zero_iff_eq_neg'

/-- Settles O9: each law is the law of the sum of the 32-bit views. -/
theorem additionLaws : Obligations.AdditionLaws := by
  refine ⟨fun x y => ?_, fun x y z => ?_, add32_zero, fun x => ?_⟩
  · rw [← val_inj, add32_val, add32_val, BitVec.add_comm]
  · simp only [← val_inj, add32_val, BitVec.add_assoc]
  · simp only [add32_eq_zero_iff, existsUnique_eq]

/-! ### Rotations of 32 bits -/

/-- A left rotation takes bit i to bit (i + n) mod 32 (R90). -/
theorem getLsbD_rotateLeft_add_mod (v : BitVec 32) (n : Nat) {i : Nat} (hi : i < 32) :
    (v.rotateLeft n).getLsbD ((i + n) % 32) = v.getLsbD i := by
  rw [BitVec.getLsbD_rotateLeft]
  by_cases hwrap : (i + n) % 32 < n % 32
  · rw [decide_eq_true hwrap, cond_true]; congr 1; omega
  · have hlt : (i + n) % 32 < 32 := Nat.mod_lt _ (by omega)
    rw [decide_eq_false hwrap, cond_false, decide_eq_true hlt, Bool.true_and]; congr 1; omega

/-- Two words that agree on the bits (i + n) mod 32 are equal, since these are all the bits. -/
theorem eq_of_getLsbD_add_mod {v w : BitVec 32} (n : Nat)
    (h : ∀ i < 32, v.getLsbD ((i + n) % 32) = w.getLsbD ((i + n) % 32)) : v = w := by
  apply BitVec.eq_of_getLsbD_eq
  intro j hj
  have hij : ((j + (32 - n % 32)) % 32 + n) % 32 = j := by omega
  simpa only [hij] using h ((j + (32 - n % 32)) % 32) (Nat.mod_lt _ (by omega))

/-- Rotations compose by the sum of the amounts: bit i goes to bit (i + a + b) mod 32 on both sides. -/
theorem rotateLeft_rotateLeft (v : BitVec 32) (a b : Nat) :
    (v.rotateLeft a).rotateLeft b = v.rotateLeft (a + b) := by
  refine eq_of_getLsbD_add_mod (a + b) fun i hi => ?_
  have hstages : (i + (a + b)) % 32 = ((i + a) % 32 + b) % 32 := by omega
  rw [getLsbD_rotateLeft_add_mod v (a + b) hi, hstages, getLsbD_rotateLeft_add_mod _ b (Nat.mod_lt _ (by omega)),
    getLsbD_rotateLeft_add_mod v a hi]

theorem rotateLeft_xor (v w : BitVec 32) (n : Nat) :
    (v ^^^ w).rotateLeft n = v.rotateLeft n ^^^ w.rotateLeft n := by
  refine eq_of_getLsbD_add_mod n fun i hi => ?_
  simp only [BitVec.getLsbD_xor, getLsbD_rotateLeft_add_mod _ n hi]

/-! ### Rotl32 by its cases (R90) -/

theorem rotl32_of_lt (x : Word32) {n : Nat} (hn : n < 16) : rotl32 x n = rotlLow x n := if_neg (Nat.not_le.2 hn)

theorem rotl32_of_le (x : Word32) {n : Nat} (hn : 16 ≤ n) : rotl32 x n = rotlLow (swapHalves x) (n - 16) := if_pos hn

@[simp] theorem rotlLow_zero (x : Word32) : rotlLow x 0 = x := rfl

theorem rotlLow_of_pos (x : Word32) {n : Nat} (hn : 1 ≤ n) :
    rotlLow x n = ⟨rotlHalf x.hi x.lo n, rotlHalf x.lo x.hi n⟩ := if_neg (Nat.ne_of_gt hn)

@[simp] theorem rotl32_zero (x : Word32) : rotl32 x 0 = x := rfl

/-- A new half by the shifts and the mask of R90. -/
theorem rotlHalf_in_range (own other : Half) {n : Nat} (h1 : 1 ≤ n) (hn : n ≤ 15) :
    rotlHalf own other n = (own <<< n) ||| ((other >>> (16 - n)) &&& BitVec.ofNat 16 (2 ^ n - 1)) := by
  have hmask : lowmask n = BitVec.ofNat 16 (2 ^ n - 1) := if_pos ⟨h1, hn⟩
  rw [rotlHalf, or16, and16, shl16_in_range hn, shr16_in_range (by omega) (by omega), hmask]

/-! ### Rotl32 is the rotation of the 32-bit view -/

theorem swapHalves_val (x : Word32) : (swapHalves x).val = x.val.rotateLeft 16 := by
  refine eq_of_getLsbD_add_mod 16 fun i hi => ?_
  rw [getLsbD_rotateLeft_add_mod _ 16 hi, val_getLsbD, val_getLsbD, swapHalves]
  by_cases hlo : i < 16
  · rw [if_pos hlo, if_neg (by omega)]; congr 1; omega
  · rw [if_neg hlo, if_pos (by omega)]; congr 1; omega

/-- Below 16, the bits that a half pushes out at its top come in at the bottom of the other half. -/
theorem rotlLow_val (x : Word32) {n : Nat} (hn : n ≤ 15) : (rotlLow x n).val = x.val.rotateLeft n := by
  refine eq_of_getLsbD_add_mod n fun i hi => ?_
  rw [getLsbD_rotateLeft_add_mod _ n hi]
  obtain rfl | hpos := Nat.eq_zero_or_pos n
  · rw [rotlLow_zero, Nat.add_zero, Nat.mod_eq_of_lt hi]
  rw [rotlLow_of_pos x hpos, val_getLsbD, val_getLsbD]
  by_cases hnew : (i + n) % 32 < 16 <;> by_cases hold : i < 16
  · rw [if_pos hnew, if_pos hold, rotlHalf_bit hpos hn hnew, if_neg (by omega)]; congr 1; omega
  · rw [if_pos hnew, if_neg hold, rotlHalf_bit hpos hn hnew, if_pos (by omega)]; congr 1; omega
  · rw [if_neg hnew, if_pos hold, rotlHalf_bit hpos hn (by omega), if_pos (by omega)]; congr 1; omega
  · rw [if_neg hnew, if_neg hold, rotlHalf_bit hpos hn (by omega), if_neg (by omega)]; congr 1; omega

/-- Rotl32 is the left rotation of the 32-bit view, for every amount a rotation can have (R90). -/
theorem rotl32_val (x : Word32) {n : Nat} (hn : n ≤ 31) : (rotl32 x n).val = x.val.rotateLeft n := by
  by_cases h16 : 16 ≤ n
  · rw [rotl32_of_le x h16, rotlLow_val _ (by omega), swapHalves_val, rotateLeft_rotateLeft, Nat.add_sub_cancel' h16]
  · rw [rotl32_of_lt x (by omega), rotlLow_val x (by omega)]

/-- Bit i of a word is bit (i + n) mod 32 of its rotation (R90). -/
theorem rotl32_getLsbD (x : Word32) {n i : Nat} (hn : n ≤ 31) (hi : i < 32) :
    (rotl32 x n).val.getLsbD ((i + n) % 32) = x.val.getLsbD i := by
  rw [rotl32_val x hn, getLsbD_rotateLeft_add_mod _ n hi]

/-- Settles O7: the cases are those of the definition, and the view is rotated. -/
theorem rotl32IsLeftRotation : Obligations.Rotl32IsLeftRotation := by
  refine fun x n hn => ⟨?_, fun h16 => ?_, fun h1 h15 => ?_, fun i hi => rotl32_getLsbD x hn hi⟩
  · rintro rfl; exact rotl32_zero x
  · rw [rotl32_of_le x h16, rotl32_of_lt _ (by omega), swapHalves]
  · rw [rotl32_of_lt x (by omega), rotlLow_of_pos x h1, rotlHalf_in_range _ _ h1 h15, rotlHalf_in_range _ _ h1 h15]

/-! ### The rotation laws (R94) -/

theorem rotl32_rotl32 (x : Word32) {a b : Nat} (ha : a ≤ 31) (hb : b ≤ 31) :
    rotl32 (rotl32 x a) b = rotl32 x ((a + b) % 32) := by
  rw [← val_inj, rotl32_val _ hb, rotl32_val _ ha, rotateLeft_rotateLeft,
    rotl32_val _ (Nat.le_of_lt_succ (Nat.mod_lt _ (by omega))), BitVec.rotateLeft_mod_eq_rotateLeft]

/-- Two rotations whose amounts make up a whole turn undo each other. -/
theorem rotl32_rotl32_cancel (x : Word32) {a b : Nat} (ha : a ≤ 31) (hb : b ≤ 31) (hab : (a + b) % 32 = 0) :
    rotl32 (rotl32 x a) b = x := by
  rw [rotl32_rotl32 x ha hb, hab, rotl32_zero]

theorem rotl32_bijective {n : Nat} (hn : n ≤ 31) : Function.Bijective (fun x => rotl32 x n) :=
  Function.bijective_iff_has_inverse.2 ⟨fun x => rotl32 x ((32 - n) % 32),
    fun x => rotl32_rotl32_cancel x hn (by omega) (by omega),
    fun x => rotl32_rotl32_cancel x (by omega) hn (by omega)⟩

/-- The set bits of the rotation are those of the word, each moved on by n places. -/
theorem card_setBits_rotl32 (x : Word32) {n : Nat} (hn : n ≤ 31) :
    (Finset.univ.filter (fun i : Fin 32 => (rotl32 x n).val.getLsbD i = true)).card =
      (Finset.univ.filter (fun i : Fin 32 => x.val.getLsbD i = true)).card := by
  refine (Finset.card_equiv (Equiv.addRight (Fin.ofNat 32 n)) fun i => ?_).symm
  have hmoved : (Equiv.addRight (Fin.ofNat 32 n) i).val = (i.val + n) % 32 := by
    simp [Fin.val_add]
  simp only [Finset.mem_filter, Finset.mem_univ, true_and, hmoved, rotl32_getLsbD x hn i.isLt]

theorem rotl32_xor32 (x y : Word32) {n : Nat} (hn : n ≤ 31) :
    rotl32 (xor32 x y) n = xor32 (rotl32 x n) (rotl32 y n) := by
  rw [← val_inj, rotl32_val _ hn, xor32_val, rotateLeft_xor, xor32_val, rotl32_val _ hn, rotl32_val _ hn]

/-- Settles O8: the laws of the rotation of the 32-bit view. -/
theorem rotationLaws : Obligations.RotationLaws :=
  ⟨rotl32_zero, fun x _ h1 ha => rotl32_rotl32_cancel x ha (by omega) (by omega),
    fun x _ _ ha hb => rotl32_rotl32 x ha hb, fun _ hn => rotl32_bijective hn,
    fun x _ hn => card_setBits_rotl32 x hn, fun x y _ hn => rotl32_xor32 x y hn⟩

end Sys2Proof.Machine
end

section
/-! PROOF. The operations of slot arithmetic: result, completion, frame and FAULT of ADD32, ADDI32, XOR32 and ROTL32
(40_halfword_arithmetic.md R88, R89, R91, R92; 10_state.md R35). -/

namespace Sys2Proof.Machine

open Sys2Proof.Claims

/-- A legal operation that reads `reads` and whose body writes `x` to `Wd[d]` completes with that effect and no other,
if recording FAULT leaves the value of `x`. -/
theorem completesWith_setWd {i : Instr} {reads : List Nat} {d : Fin 4} {x : Element → Word32} (hi : i.WellFormed)
    (hreads : readsOf i = reads) (hbody : ∀ e, bodyOf i e = e.setWd d (x e))
    (hx : ∀ (pc : Nat) (e : Element), x (e.noteReads pc reads) = x e) (s : State) :
    CompletesWith i (Effect reads (fun e => wordAt (2 * d) (x e))) s := by
  refine completesWith_of_body hi fun e _ => ?_
  rw [hreads, hbody, hx]
  exact effect_setWd reads d x s.pc e

/-- Settles O10: the body writes the sum of the slots. -/
theorem add32Effect : Obligations.Add32Effect := fun s _ _ _ ha hb =>
  completesWith_setWd (Instr.wellFormed_add32.2 ⟨ha, hb⟩) rfl (fun _ => rfl)
    (fun _ _ => by simp only [Element.slot_noteReads]) s

/-- Settles O11: the body writes the sum of the slot and the immediate. -/
theorem addi32Effect : Obligations.Addi32Effect := fun s _ _ _ ha himm =>
  completesWith_setWd (Instr.wellFormed_addi32.2 ⟨ha, himm⟩) rfl (fun _ => rfl)
    (fun _ _ => by simp only [Element.slot_noteReads]) s

/-- Settles O12: the body writes the XOR of the slots. -/
theorem xor32Effect : Obligations.Xor32Effect := fun s _ _ _ ha hb =>
  completesWith_setWd (Instr.wellFormed_xor32.2 ⟨ha, hb⟩) rfl (fun _ => rfl)
    (fun _ _ => by simp only [Element.slot_noteReads]) s

/-- An amount of 32 or more is CE_ROT_AMOUNT, if the slot is one (R144, R150). -/
theorem check_rotl32_of_large (d : Fin 4) {a amt : Nat} (ha : a ≤ 12) (hamt : 32 ≤ amt) :
    (Instr.rotl32 d a amt).check = some .rotAmount := by
  rw [Instr.check, if_neg (by omega), if_neg (by omega)]

/-- Settles O13: the body writes the rotated slot, and a refused term does not execute. -/
theorem rotl32Effect : Obligations.Rotl32Effect := by
  refine ⟨fun s d a amt ha hamt => ?_, fun s d a amt ha hamt => ?_⟩
  · exact completesWith_setWd (Instr.wellFormed_rotl32.2 ⟨ha, hamt⟩) rfl (fun _ => rfl)
      (fun _ _ => by simp only [Element.slot_noteReads]) s
  · have hcheck := check_rotl32_of_large d ha hamt
    exact ⟨hcheck, refusedTermsNeverExecute _ _ s hcheck⟩

end Sys2Proof.Machine
end

section
/-! PROOF. MIX and ROUND: result, completion, frame and FAULT, the period of the rotation table, and how MIX is
undone (41_mix_round.md R100, R102, R104, R106; 10_state.md R35). -/

namespace Sys2Proof.Machine

open Sys2Proof.Claims

/-! ### Writes one after another -/

/-- Recording FAULT is no write. -/
theorem becomes_noteReads_iff (pc : Nat) (reads : List Nat) {writes : List (Nat × Half)} {e e' : Element} :
    Becomes writes (e.noteReads pc reads) e' ↔ Becomes writes e e' := by
  simp [Becomes]

/-- Writes after writes to other entries are both lists of writes together. -/
theorem becomes_append {ws vs : List (Nat × Half)} {e e₁ e₂ : Element} (h₁ : Becomes ws e e₁)
    (h₂ : Becomes vs e₁ e₂) (hdisjoint : ∀ p ∈ ws, p.1 ∉ vs.map Prod.fst) : Becomes (ws ++ vs) e e₂ := by
  obtain ⟨hwrite₁, hframe₁, hrow₁, hcol₁, hid₁, hseed₁⟩ := h₁
  obtain ⟨hwrite₂, hframe₂, hrow₂, hcol₂, hid₂, hseed₂⟩ := h₂
  refine ⟨fun p hp => ?_, fun h hh => ?_, hrow₂.trans hrow₁, hcol₂.trans hcol₁, hid₂.trans hid₁,
    hseed₂.trans hseed₁⟩
  · obtain hp | hp := List.mem_append.1 hp
    · exact (hframe₂ _ (hdisjoint p hp)).trans (hwrite₁ p hp)
    · exact hwrite₂ p hp
  · rw [List.map_append, List.mem_append, not_or] at hh
    exact (hframe₂ h hh.2).trans (hframe₁ h hh.1)

/-- A legal operation whose body writes `writes` and appends to no TRACE completes with that effect and no other, if
recording FAULT leaves the values written. -/
theorem completesWith_effect {i : Instr} {reads : List Nat} {writes : Element → List (Nat × Half)}
    (hi : i.WellFormed) (hdump : isDump i = false) (hreads : readsOf i = reads)
    (hbody : ∀ e, Becomes (writes e) e (bodyOf i e))
    (hwrites : ∀ (pc : Nat) (e : Element), writes (e.noteReads pc reads) = writes e) (s : State) :
    CompletesWith i (Effect reads writes) s := by
  refine completesWith_of_body hi fun e _ => ?_
  rw [hreads]
  refine ⟨?_, ?_, ?_⟩
  · rw [← becomes_noteReads_iff s.pc reads, ← hwrites s.pc e]
    exact hbody _
  · rw [bodyOf_trace hdump, Element.noteReads_trace]
  · rw [FaultAfter, bodyOf_fault, Element.noteReads_fault]

/-! ### MIX -/

@[simp] theorem mixWrites_noteReads (x y t pc : Nat) (reads : List Nat) (e : Element) :
    mixWrites x y t (e.noteReads pc reads) = mixWrites x y t e := by
  simp only [mixWrites, Element.wd, Element.slot_noteReads]

/-- The entries that Mix writes are those of its two words. -/
theorem map_fst_mixWrites (x y t : Nat) (e : Element) :
    (mixWrites x y t e).map Prod.fst = [2 * x, 2 * x + 1, 2 * y, 2 * y + 1] := rfl

theorem becomes_mix (e : Element) {x y : Nat} (t : Nat) (hx : x < 4) (hy : y < 4) (hxy : x ≠ y) :
    Becomes (mixWrites x y t e) e (e.mix x y t) := by
  have hentry := fun h => entry_mix e t h hx hy hxy
  refine ⟨fun p hp => ?_, fun h hh => ?_, by simp, by simp, by simp, by simp⟩
  · simp only [mixWrites, wordAt, List.cons_append, List.nil_append, List.mem_cons, List.not_mem_nil, or_false] at hp
    rw [hentry]
    obtain rfl | rfl | rfl | rfl := hp
    · rw [if_pos rfl]; rfl
    · rw [if_neg (by omega), if_pos rfl]; rfl
    · rw [if_neg (by omega), if_neg (by omega), if_pos rfl]; rfl
    · rw [if_neg (by omega), if_neg (by omega), if_neg (by omega), if_pos rfl]; rfl
  · simp only [map_fst_mixWrites, List.mem_cons, List.not_mem_nil, or_false, not_or] at hh
    obtain ⟨h₁, h₂, h₃, h₄⟩ := hh
    rw [hentry, if_neg h₁, if_neg h₂, if_neg h₃, if_neg h₄]

/-- MIX with equal words is reserved (R71). -/
theorem check_mix_self (m : Fin 4) (amt : Nat) : (Instr.mix m m amt).check = some .illegalOp := if_pos rfl

/-- An amount of 32 or more is CE_ROT_AMOUNT, if the words differ (R144, R150). -/
theorem check_mix_of_large {ma mb : Fin 4} {amt : Nat} (hne : ma ≠ mb) (hamt : 32 ≤ amt) :
    (Instr.mix ma mb amt).check = some .rotAmount := by
  rw [Instr.check, if_neg hne, if_neg (by omega)]

/-- Settles O14: the body is Mix, and a refused term does not execute. -/
theorem mixEffect : Obligations.MixEffect := by
  refine ⟨fun s ma mb amt hne hamt => ?_, fun s m amt => ?_, fun s ma mb amt hne hamt => ?_⟩
  · exact completesWith_effect (Instr.wellFormed_mix.2 ⟨hne, hamt⟩) rfl rfl
      (fun e => becomes_mix e amt ma.isLt mb.isLt (Fin.val_ne_of_ne hne))
      (fun _ _ => mixWrites_noteReads _ _ _ _ _ _) s
  · exact refusedTermsNeverExecute _ _ s (check_mix_self m amt)
  · exact refusedTermsNeverExecute _ _ s (check_mix_of_large hne hamt)

theorem xor32_xor32_cancel (x y : Word32) : xor32 (xor32 x y) y = x := by
  rw [← val_inj, xor32_val, xor32_val, BitVec.xor_assoc, BitVec.xor_self, BitVec.xor_zero]

theorem add32_left_inj (x y z : Word32) : add32 x z = add32 y z ↔ x = y := by
  rw [← val_inj, add32_val, add32_val, BitVec.add_left_inj, val_inj]

/-- Settles O31: the new `Wd[ma]` is the sum that was folded into the rotated `Wd[mb]`, so folding it in again and
turning on to a whole turn gives the old `Wd[mb]`; and a summand is determined by the sum and the other one. -/
theorem mixIsInvertible : Obligations.MixIsInvertible := by
  intro s ma mb amt hne hamt
  refine completesWith_of_body (Instr.wellFormed_mix.2 ⟨hne, hamt⟩) fun e _ => ?_
  have hval := Fin.val_ne_of_ne hne
  simp only [bodyOf, Element.wd, slot_mix _ amt _ ma.isLt mb.isLt hval, Element.slot_noteReads, if_pos,
    if_neg hval.symm, xor32_xor32_cancel, add32_left_inj]
  exact ⟨(rotl32_rotl32_cancel _ hamt (by omega) (by omega)).symm, trivial, fun _ hA => hA⟩

/-! ### ROUND -/

/-- The table of the model is the one that R6 lists. -/
theorem rot_eq (i : Nat) : rot i = specRot.getD (i % 16) 0 := rfl

theorem Element.roundBody_even {n : Nat} (hn : n % 2 = 0) (e : Element) :
    e.roundBody n = (e.mix 0 1 (rot (2 * n))).mix 2 3 (rot (2 * n + 1)) := if_pos hn

theorem Element.roundBody_odd {n : Nat} (hn : n % 2 = 1) (e : Element) :
    e.roundBody n = (e.mix 0 3 (rot (2 * n))).mix 2 1 (rot (2 * n + 1)) := if_neg (by omega)

theorem roundReads_even {n : Nat} (hn : n % 2 = 0) : roundReads n = [0, 1, 2, 3, 4, 5, 6, 7] := if_pos hn

theorem roundReads_odd {n : Nat} (hn : n % 2 = 1) : roundReads n = [0, 1, 6, 7, 4, 5, 2, 3] := if_neg (by omega)

/-- Two Mix calls on four different words write what each would write alone, since neither reads what the other
writes. -/
theorem becomes_mix_mix (e : Element) {x y z w : Nat} (t u : Nat) (hlt : ∀ i ∈ [x, y, z, w], i < 4)
    (hnodup : [x, y, z, w].Nodup) :
    Becomes (mixWrites x y t e ++ mixWrites z w u e) e ((e.mix x y t).mix z w u) := by
  obtain ⟨hx, hy, hz, hw⟩ : x < 4 ∧ y < 4 ∧ z < 4 ∧ w < 4 := by simpa using hlt
  simp only [List.nodup_cons, List.mem_cons, List.not_mem_nil, or_false, not_or] at hnodup
  obtain ⟨⟨hxy, hxz, hxw⟩, ⟨hyz, hyw⟩, hzw, -⟩ := hnodup
  have hwrites : mixWrites z w u (e.mix x y t) = mixWrites z w u e := by
    simp only [mixWrites, Element.wd, slot_mix e t _ hx hy hxy, if_neg (Ne.symm hxz), if_neg (Ne.symm hxw),
      if_neg (Ne.symm hyz), if_neg (Ne.symm hyw)]
  refine becomes_append (becomes_mix e t hx hy hxy) (hwrites ▸ becomes_mix _ u hz hw hzw) fun p hp => ?_
  have hp := List.mem_map_of_mem (f := Prod.fst) hp
  simp only [map_fst_mixWrites, List.mem_cons, List.not_mem_nil, or_false] at hp ⊢
  omega

/-- Settles O15: the body is the two Mix calls of the parity, on four different words. -/
theorem roundEffect : Obligations.RoundEffect := by
  refine ⟨fun s n hn heven => ?_, fun s n hn hodd => ?_, fun s n hn => ?_⟩
  · refine completesWith_effect (Instr.wellFormed_round.2 hn) rfl (roundReads_even heven) (fun e => ?_)
      (fun _ _ => by simp only [mixWrites_noteReads]) s
    rw [bodyOf, Element.roundBody_even heven, rot_eq, rot_eq]
    exact becomes_mix_mix e _ _ (by decide) (by decide)
  · refine completesWith_effect (Instr.wellFormed_round.2 hn) rfl (roundReads_odd hodd) (fun e => ?_)
      (fun _ _ => by simp only [mixWrites_noteReads]) s
    rw [bodyOf, Element.roundBody_odd hodd, rot_eq, rot_eq]
    exact becomes_mix_mix e _ _ (by decide) (by decide)
  · exact refusedTermsNeverExecute _ _ s (if_neg (Nat.not_le.2 hn))

/-- The table is indexed modulo 16 (R102). -/
theorem rot_add_sixteen (i : Nat) : rot (i + 16) = rot i := by
  rw [rot, rot, Nat.add_mod_right]

theorem roundReads_add_eight (n : Nat) : roundReads (n + 8) = roundReads n := by
  have hparity : (n + 8) % 2 = n % 2 := by omega
  simp only [roundReads, hparity]

/-- Eight rounds on, the parity and both amounts are the same (R104). -/
theorem Element.roundBody_add_eight (n : Nat) : Element.roundBody (n + 8) = Element.roundBody n := by
  have hparity : (n + 8) % 2 = n % 2 := by omega
  have hfirst : rot (2 * (n + 8)) = rot (2 * n) := rot_add_sixteen (2 * n)
  have hsecond : rot (2 * (n + 8) + 1) = rot (2 * n + 1) := by
    rw [← rot_add_sixteen (2 * n + 1)]; congr 1
  funext e
  simp only [Element.roundBody, hparity, hfirst, hsecond]

/-- Settles O30: both rounds are legal, read the same entries and have the same body. -/
theorem roundsRepeatWithPeriodEight : Obligations.RoundsRepeatWithPeriodEight := by
  intro s n hn
  rw [exec_legal (Instr.wellFormed_round.2 (by omega)), exec_legal (Instr.wellFormed_round.2 (by omega))]
  simp only [readsOf, bodyOf, roundReads_add_eight, Element.roundBody_add_eight]

end Sys2Proof.Machine
end

section
/-! PROOF. A stream of operations does to the arrays what its bodies do one after another, whatever FAULT and TRACE
record on the way; so MIX is its three operations and ROUND its two (41_mix_round.md R101, R103). -/

namespace Sys2Proof.Machine

open Sys2Proof.Claims

/-! ### An element without its records -/

/-- The element with nothing recorded: no FAULT, and TRACE empty. No operation reads either (R29, R35). -/
def Element.unrecorded (e : Element) : Element := { e with fault := none, trace := [] }

@[simp] theorem Element.unrecorded_noteReads (pc : Nat) (reads : List Nat) (e : Element) :
    (e.noteReads pc reads).unrecorded = e.unrecorded := by
  rw [Element.noteReads_eq]; rfl

theorem sameArrays_of_unrecorded {e e' : Element} (h : e.unrecorded = e'.unrecorded) : SameArrays e e' := by
  obtain ⟨hw, hctr, hks, -⟩ := Element.mk.inj h
  exact ⟨hw.symm, hctr.symm, hks.symm⟩

theorem Element.unrecorded_unrecorded (e : Element) : e.unrecorded.unrecorded = e.unrecorded := rfl

theorem Element.unrecorded_slot (e : Element) (s : Nat) : e.unrecorded.slot s = e.slot s := rfl

theorem Element.unrecorded_setWd (e : Element) (i : Nat) (x : Word32) :
    e.unrecorded.setWd i x = (e.setWd i x).unrecorded := rfl

theorem Element.unrecorded_mix (e : Element) (x y t : Nat) : e.unrecorded.mix x y t = (e.mix x y t).unrecorded := by
  simp only [Element.mix, Element.wd, unrecorded_slot, unrecorded_setWd]

theorem Element.unrecorded_roundBody (e : Element) (n : Nat) :
    e.unrecorded.roundBody n = (e.roundBody n).unrecorded := by
  obtain hn | hn := Nat.mod_two_eq_zero_or_one n
  · simp only [roundBody_even hn, unrecorded_mix]
  · simp only [roundBody_odd hn, unrecorded_mix]

theorem Element.unrecorded_injectBody (e : Element) (q : Nat) :
    e.unrecorded.injectBody q = (e.injectBody q).unrecorded := by
  simp only [Element.injectBody, Element.injectWord, Element.wd, Element.kd, unrecorded_slot, unrecorded_setWd]

theorem Element.unrecorded_writeKs (e : Element) (j : Nat) (v : Half) :
    e.unrecorded.writeKs j v = (e.writeKs j v).unrecorded := rfl

theorem Element.unrecorded_keyidBody (e : Element) : e.unrecorded.keyidBody = e.keyidBody.unrecorded := by
  simp only [Element.keyidBody, unrecorded_writeKs, show e.unrecorded.rowValue = e.rowValue from rfl,
    show e.unrecorded.colValue = e.colValue from rfl]

theorem Element.unrecorded_keyschedBody (e : Element) :
    e.unrecorded.keyschedBody = e.keyschedBody.unrecorded := rfl

theorem Element.unrecorded_initBody (e : Element) : e.unrecorded.initBody = e.initBody.unrecorded := by
  simp only [Element.initBody, Element.initWord, Element.cd, Element.kd, unrecorded_keyschedBody, unrecorded_slot,
    unrecorded_setWd]

theorem Element.unrecorded_genTurn (e : Element) (n : Nat) : e.unrecorded.genTurn n = (e.genTurn n).unrecorded := by
  unfold Element.genTurn
  split_ifs
  · rw [unrecorded_injectBody, unrecorded_roundBody]
  · rw [unrecorded_roundBody]

theorem Element.unrecorded_genBody (e : Element) : e.unrecorded.genBody = e.genBody.unrecorded := by
  rw [Element.genBody, unrecorded_initBody, List.foldl_hom Element.unrecorded Element.unrecorded_genTurn,
    unrecorded_injectBody, Element.genBody]

/-- No operation depends on what was recorded before it. -/
theorem bodyOf_unrecorded (i : Instr) (e : Element) :
    (bodyOf i e.unrecorded).unrecorded = (bodyOf i e).unrecorded := by
  cases i with
  | mix ma mb amt => rw [bodyOf, Element.unrecorded_mix, Element.unrecorded_unrecorded]
  | inject q => rw [bodyOf, Element.unrecorded_injectBody, Element.unrecorded_unrecorded]
  | round n => rw [bodyOf, Element.unrecorded_roundBody, Element.unrecorded_unrecorded]
  | keyid => rw [bodyOf, Element.unrecorded_keyidBody, Element.unrecorded_unrecorded]
  | init => rw [bodyOf, Element.unrecorded_initBody, Element.unrecorded_unrecorded]
  | gen => rw [bodyOf, Element.unrecorded_genBody, Element.unrecorded_unrecorded]
  | _ => rfl

/-! ### Streams of operations -/

/-- The effect of a stream of operations on one element. -/
def bodiesOf (is : List Instr) (e : Element) : Element := is.foldl (fun e i => bodyOf i e) e

theorem bodiesOf_nil (e : Element) : bodiesOf [] e = e := rfl

theorem bodiesOf_cons (i : Instr) (is : List Instr) (e : Element) :
    bodiesOf (i :: is) e = bodiesOf is (bodyOf i e) := rfl

theorem bodiesOf_congr (is : List Instr) {e e' : Element} (h : e.unrecorded = e'.unrecorded) :
    (bodiesOf is e).unrecorded = (bodiesOf is e').unrecorded := by
  induction is generalizing e e' with
  | nil => exact h
  | cons i is ih => exact ih (by rw [← bodyOf_unrecorded i e, h, bodyOf_unrecorded])

theorem sequencerKept_lockstep (reads : List Nat) (body : Element → Element) (s : State) :
    SequencerKept s (s.lockstep reads body) := by simp [SequencerKept]

theorem sequencerKept_trans {s t u : State} (h : SequencerKept s t) (h' : SequencerKept t u) : SequencerKept s u := by
  simp_all [SequencerKept]

/-- A stream of legal operations completes, with pc gone on by its length and every element as the bodies leave it
but for its records. -/
theorem execAll_legal {is : List Instr} (his : ∀ i ∈ is, i.WellFormed) (s : State) :
    ∃ u, execAll is s = .next u ∧ u.pc = s.pc + is.length ∧ SequencerKept s u ∧
      u.elems.map Element.unrecorded = s.elems.map (fun e => (bodiesOf is e).unrecorded) := by
  induction is generalizing s with
  | nil => exact ⟨s, rfl, rfl, by simp [SequencerKept], rfl⟩
  | cons i is ih =>
    obtain ⟨hi, his⟩ := List.forall_mem_cons.1 his
    obtain ⟨u, hu, hpc, hkept, helems⟩ := ih his (s.lockstep (readsOf i) (bodyOf i))
    refine ⟨u, ?_, ?_, sequencerKept_trans (sequencerKept_lockstep _ _ s) hkept, ?_⟩
    · rw [execAll, exec_legal hi]; exact hu
    · rw [hpc, State.lockstep_pc, List.length_cons]; omega
    · rw [helems, State.lockstep_elems, List.map_map]
      refine List.map_congr_left fun e _ => ?_
      rw [bodiesOf_cons]
      refine bodiesOf_congr is ?_
      rw [← bodyOf_unrecorded, Element.unrecorded_noteReads, bodyOf_unrecorded]

/-- A legal operation and a stream of legal operations whose bodies together are its body have the same effect on the
arrays. -/
theorem sameEffectOnArrays_of_bodiesOf {i : Instr} {is : List Instr} (hi : i.WellFormed)
    (his : ∀ j ∈ is, j.WellFormed) (hbodies : ∀ e, bodiesOf is e = bodyOf i e) (s : State) :
    SameEffectOnArrays i is s := by
  obtain ⟨u, hu, hpc, hkept, helems⟩ := execAll_legal his s
  refine ⟨_, u, exec_legal hi s, hu, ?_, State.lockstep_pc _ _ s, hpc, sequencerKept_lockstep _ _ s, hkept⟩
  rw [State.lockstep_elems, List.forall₂_map_left_iff]
  have hsame : List.Forall₂ (fun e e' => e' = e) (s.elems.map (fun e => (bodiesOf is e).unrecorded))
      (u.elems.map Element.unrecorded) := by
    rw [helems]; exact List.forall₂_same.2 fun _ _ => rfl
  rw [List.forall₂_map_left_iff, List.forall₂_map_right_iff] at hsame
  refine hsame.imp fun e e' he' => sameArrays_of_unrecorded ?_
  rw [he', hbodies, ← bodyOf_unrecorded, Element.unrecorded_noteReads, bodyOf_unrecorded]

/-! ### MIX and ROUND written out -/

/-- Settles O25: the three operations are the three steps of Mix. -/
theorem mixIsAddRotateXor : Obligations.MixIsAddRotateXor := by
  intro s ma mb amt hne hamt
  have hma : ma.val ≤ 12 := by omega
  have hmb : mb.val ≤ 12 := by omega
  refine sameEffectOnArrays_of_bodiesOf (Instr.wellFormed_mix.2 ⟨hne, hamt⟩) ?_ (fun e => ?_) s
  · simp [Instr.wellFormed_add32, Instr.wellFormed_rotl32, Instr.wellFormed_xor32, hma, hmb, hamt]
  · simp only [bodiesOf_cons, bodiesOf_nil, bodyOf, Element.mix, Element.wd]

/-- Every amount of the table is one a rotation can have. -/
theorem specRot_le (i : Nat) : specRot.getD (i % 16) 0 ≤ 31 := by
  have hall : ∀ k < 16, specRot.getD k 0 ≤ 31 := by decide
  exact hall _ (Nat.mod_lt _ (by omega))

/-- Settles O26: the body of ROUND is the two Mix calls of its parity. -/
theorem roundIsTwoMixes : Obligations.RoundIsTwoMixes := by
  refine fun s n hn => ⟨fun heven => ?_, fun hodd => ?_⟩
  · refine sameEffectOnArrays_of_bodiesOf (Instr.wellFormed_round.2 hn) ?_ (fun e => ?_) s
    · simpa [Instr.wellFormed_mix] using ⟨specRot_le (2 * n), specRot_le (2 * n + 1)⟩
    · rw [bodyOf, Element.roundBody_even heven, rot_eq, rot_eq]; rfl
  · refine sameEffectOnArrays_of_bodiesOf (Instr.wellFormed_round.2 hn) ?_ (fun e => ?_) s
    · simpa [Instr.wellFormed_mix] using ⟨specRot_le (2 * n), specRot_le (2 * n + 1)⟩
    · rw [bodyOf, Element.roundBody_odd hodd, rot_eq, rot_eq]; rfl

end Sys2Proof.Machine
end

section
/-! PROOF. The key schedule: result, completion, frame and FAULT of KEYID, KEYSCHED and INJECT, INJECT written out in
additions, and the distinct keys that KEYID gives the elements of a grid (42_key_schedule.md R110, R112, R114, R115;
10_state.md R25, R35; 60_exceptions.md R148). -/

namespace Sys2Proof.Machine

open Sys2Proof.Claims

/-! ### Writes of words -/

/-- From what every entry holds after the write of a word to what the write is. -/
theorem becomes_wordAt {e e' : Element} {h : Nat} {x : Word32}
    (hentry : ∀ k, e'.entry k =
      if k = h then ⟨x.hi, true⟩ else if k = h + 1 then ⟨x.lo, true⟩ else e.entry k)
    (hkeeps : e'.row = e.row ∧ e'.col = e.col ∧ e'.identified = e.identified ∧ e'.seed = e.seed) :
    Becomes (wordAt h x) e e' := by
  refine ⟨fun p hp => ?_, fun k hk => ?_, hkeeps⟩
  · simp only [wordAt, List.mem_cons, List.not_mem_nil, or_false] at hp
    obtain rfl | rfl := hp <;> simp [hentry]
  · simp only [wordAt, List.map_cons, List.map_nil, List.mem_cons, List.not_mem_nil, or_false, not_or] at hk
    rw [hentry, if_neg hk.1, if_neg hk.2]

theorem becomes_setWd (e : Element) {i : Nat} (hi : i < 4) (x : Word32) :
    Becomes (wordAt (2 * i) x) e (e.setWd i x) :=
  becomes_wordAt (e.entry_setWd hi x) (by simp)

theorem becomes_setKd (e : Element) {i : Nat} (hi : i < 5) (x : Word32) :
    Becomes (wordAt (16 + 2 * i) x) e (e.setKd i x) :=
  becomes_wordAt (e.entry_setKd hi x) (by simp)

/-- Four words written one after another, to places that follow each other. -/
theorem becomes_four_words {e e₁ e₂ e₃ e₄ : Element} {h : Nat} {x₀ x₁ x₂ x₃ : Word32}
    (h₀ : Becomes (wordAt h x₀) e e₁) (h₁ : Becomes (wordAt (h + 2) x₁) e₁ e₂)
    (h₂ : Becomes (wordAt (h + 4) x₂) e₂ e₃) (h₃ : Becomes (wordAt (h + 6) x₃) e₃ e₄) :
    Becomes (wordAt h x₀ ++ wordAt (h + 2) x₁ ++ wordAt (h + 4) x₂ ++ wordAt (h + 6) x₃) e e₄ := by
  refine becomes_append (becomes_append (becomes_append h₀ h₁ ?_) h₂ ?_) h₃ ?_ <;> simp [wordAt] <;> omega

/-- Of two writes of one working word the second stays. -/
theorem Element.setWd_setWd (e : Element) {i : Nat} (hi : i < 4) (x y : Word32) :
    (e.setWd i x).setWd i y = e.setWd i y := by
  refine element_ext (fun h => ?_) (by simp) (by simp) (by simp) (by simp) (by simp) (by simp)
  simp only [Element.entry_setWd _ hi]
  split_ifs <;> rfl

theorem becomes_four_setWd (e : Element) (x₀ x₁ x₂ x₃ : Word32) :
    Becomes (wordAt 0 x₀ ++ wordAt 2 x₁ ++ wordAt 4 x₂ ++ wordAt 6 x₃) e
      ((((e.setWd 0 x₀).setWd 1 x₁).setWd 2 x₂).setWd 3 x₃) :=
  becomes_four_words (h := 0) (becomes_setWd e (i := 0) (by omega) x₀) (becomes_setWd _ (i := 1) (by omega) x₁)
    (becomes_setWd _ (i := 2) (by omega) x₂) (becomes_setWd _ (i := 3) (by omega) x₃)

theorem becomes_four_setKd (e : Element) (x₀ x₁ x₂ x₃ : Word32) :
    Becomes (wordAt 16 x₀ ++ wordAt 18 x₁ ++ wordAt 20 x₂ ++ wordAt 22 x₃) e
      ((((e.setKd 0 x₀).setKd 1 x₁).setKd 2 x₂).setKd 3 x₃) :=
  becomes_four_words (h := 16) (becomes_setKd e (i := 0) (by omega) x₀) (becomes_setKd _ (i := 1) (by omega) x₁)
    (becomes_setKd _ (i := 2) (by omega) x₂) (becomes_setKd _ (i := 3) (by omega) x₃)

/-! ### KEYID -/

/-- KEYID in words: three zeros and the identity, each coordinate one up (R110). -/
theorem Element.keyidBody_eq_setKd (e : Element) :
    e.keyidBody = (((e.setKd 0 Word32.zero).setKd 1 Word32.zero).setKd 2 Word32.zero).setKd 3
      ⟨e.rowValue + 1, e.colValue + 1⟩ := rfl

/-- Settles O16: the body writes the four key words, and neither coordinate depends on FAULT. -/
theorem keyidEffect : Obligations.KeyidEffect := by
  refine fun s => completesWith_effect rfl rfl rfl (fun e => ?_) (fun pc e => by simp) s
  rw [bodyOf, e.keyidBody_eq_setKd]
  exact becomes_four_setKd e Word32.zero Word32.zero Word32.zero ⟨e.rowValue + 1, e.colValue + 1⟩

theorem Element.kd_keyidBody {e : Element} (hid : e.identified = true) :
    e.keyidBody.kd 3 = ⟨e.row + 1, e.col + 1⟩ := by
  have hrow : e.rowValue = e.row := if_pos hid
  have hcol : e.colValue = e.col := if_pos hid
  rw [keyidBody_eq_setKd, hrow, hcol]
  exact slot_setKd_self _ (by omega) _

/-- KEYID reads no entry, so it records no FAULT. -/
theorem elems_of_exec_keyid {s t : State} (h : exec .keyid s = .next t) :
    t.elems = s.elems.map Element.keyidBody := by
  obtain ⟨-, rfl⟩ := exec_next h
  refine (State.lockstep_elems _ _ s).trans (List.map_congr_left fun e _ => ?_)
  have hreads : AllWritten e (readsOf .keyid) := List.forall_mem_nil _
  rw [hreads.noteReads_eq]; rfl

/-- Construct gives ROW and COL to all elements at once (R156). -/
theorem State.Inv.identified {s : State} (h : s.Inv) (hc : s.constructed = true) :
    ∀ e ∈ s.elems, e.identified = true := by
  obtain ⟨e, he, hid⟩ := List.any_eq_true.1 hc
  exact h.together.resolve_right fun hnone => by simp [hnone e he] at hid

/-- A coordinate inside the largest grid is at most 65534, so one more does not wrap (R25, R148). -/
theorem toNat_coordinate_add_one {c : Half} {bound : Nat} (hc : c.toNat < bound) (hb : bound ≤ Config.maxGrid) :
    (c + 1).toNat = c.toNat + 1 := by
  unfold Config.maxGrid at hb
  exact BitVec.toNat_add_of_lt (y := 1) (show c.toNat + 1 < 2 ^ 16 by omega)

/-- The key word of an identity determines it, wrapping or not. -/
theorem identityKey_injective : Function.Injective (fun p : Half × Half => Word32.mk (p.1 + 1) (p.2 + 1)) := by
  rintro ⟨r, c⟩ ⟨r', c'⟩ h
  obtain ⟨hr, hc⟩ := Word32.mk.inj h
  exact Prod.ext ((BitVec.add_left_inj 1).1 hr) ((BitVec.add_left_inj 1).1 hc)

/-- Settles O37: `Kd[3]` is the identity with each coordinate one up, the identities differ, and a coordinate of the
grid is too small to wrap. -/
theorem keyidGivesDistinctKeys : Obligations.KeyidGivesDistinctKeys := by
  intro s t hinv hc h
  have hid := hinv.identified hc
  rw [elems_of_exec_keyid h]
  refine ⟨?_, List.forall_mem_map.2 fun e he => ?_⟩
  · have hkeys : (s.elems.map Element.keyidBody).map (fun e => e.kd 3) =
        (s.elems.map (fun e => (e.row, e.col))).map (fun p => ⟨p.1 + 1, p.2 + 1⟩) := by
      simp only [List.map_map]
      exact List.map_congr_left fun e he => Element.kd_keyidBody (hid e he)
    rw [hkeys]
    exact hinv.identities.map identityKey_injective
  · obtain ⟨⟨-, hrows⟩, ⟨-, hcols⟩, -⟩ := hinv.gridSize
    obtain ⟨hrow, hcol⟩ := hinv.insideGrid e he
    have hhi := toNat_coordinate_add_one hrow hrows
    rw [Element.kd_keyidBody (hid e he), Element.keyidBody_row, Element.keyidBody_col]
    refine ⟨fun hzero => ?_, hhi, toNat_coordinate_add_one hcol hcols⟩
    rw [show e.row + 1 = 0 from congrArg Word32.hi hzero] at hhi
    exact absurd hhi.symm (Nat.succ_ne_zero _)

/-! ### KEYSCHED -/

/-- Settles O17: the body writes `Kd[4]`, and no key word depends on FAULT. -/
theorem keyschedEffect : Obligations.KeyschedEffect := by
  refine fun s => completesWith_effect rfl rfl rfl (fun e => ?_) (fun pc e => ?_) s
  · exact becomes_setKd e (i := 4) (by omega) (parityOf e)
  · simp only [parityOf, Element.kd, Element.slot_noteReads]

/-! ### INJECT -/

theorem Element.kd_setWd (e : Element) {i : Nat} (hi : i < 4) (x : Word32) (j : Nat) :
    (e.setWd i x).kd j = e.kd j :=
  (e.slot_setWd hi x (8 + j)).trans (if_neg (by omega))

/-- The injection in terms of the words before: no addition reads a word that an earlier one wrote, but for the
scalar, which goes on top of the last sum (R114). -/
theorem Element.injectBody_eq_setWd (e : Element) (q : Nat) :
    e.injectBody q =
      (((e.setWd 0 (add32 (e.wd 0) (e.kd (q % 5)))).setWd 1 (add32 (e.wd 1) (e.kd ((q + 1) % 5)))).setWd 2
        (add32 (e.wd 2) (e.kd ((q + 2) % 5)))).setWd 3
          (add32 (add32 (e.wd 3) (e.kd ((q + 3) % 5))) (scalarWord q)) := by
  simp (disch := omega) only [injectBody, injectWord, kd_setWd, setWd_setWd]
  simp (disch := omega) only [wd, slot_setWd, if_true, if_neg, Nat.add_zero]

theorem kdReads_eq (i : Nat) : kdReads i = [16 + 2 * i, 17 + 2 * i] := by
  simp only [kdReads, slotReads, List.cons.injEq, and_true]; omega

/-- A scalar of 6 or more is reserved (R71). -/
theorem check_inject_of_large {q : Nat} (hq : 5 < q) (hlt : q < 2 ^ 16) :
    (Instr.inject q).check = some .illegalOp := by
  rw [Instr.check, if_neg (by omega), if_pos hlt]

/-- Settles O18: the body writes the four sums, and a refused term does not execute. -/
theorem injectEffect : Obligations.InjectEffect := by
  refine ⟨fun s q hq => ?_, fun s q hq hlt => ?_⟩
  · refine completesWith_effect (Instr.wellFormed_inject.2 hq) rfl ?_ (fun e => ?_) (fun _ _ => ?_) s
    · simp only [readsOf, injectReads, kdReads_eq]; rfl
    · rw [bodyOf, e.injectBody_eq_setWd]
      exact becomes_four_setWd e _ _ _ _
    · simp only [Element.wd, Element.kd, Element.slot_noteReads]
  · exact refusedTermsNeverExecute _ _ s (check_inject_of_large hq hlt)

/-- Settles O27: the five operations are the four key additions and the scalar addition of the body. -/
theorem injectIsFiveAdditions : Obligations.InjectIsFiveAdditions := by
  intro s q hq
  refine sameEffectOnArrays_of_bodiesOf (Instr.wellFormed_inject.2 hq) ?_ (fun e => ?_) s
  · have hkey : ∀ i, 8 + i % 5 ≤ 12 := fun i => by omega
    have himm : q ≤ 15 := hq.trans (by omega)
    simp [Instr.wellFormed_add32, Instr.wellFormed_addi32, hkey, himm]
  · simp only [bodiesOf_cons, bodiesOf_nil, bodyOf, Element.injectBody, Element.injectWord, Element.wd, Element.kd]
    rfl

end Sys2Proof.Machine
end

section
/-! PROOF. INIT: the entries it writes, completion, frame and FAULT, and its two expansions into other operations
(43_engine.md R121, R122; 10_state.md R35). -/

namespace Sys2Proof.Machine

open Sys2Proof.Claims

/-! ### Initialize in terms of the entries before -/

theorem Element.kd_setKd (e : Element) {i : Nat} (hi : i < 5) (x : Word32) {j : Nat} (hj : j ≠ i) :
    (e.setKd i x).kd j = e.kd j :=
  (e.slot_setKd hi x (8 + j)).trans (if_neg (by omega))

theorem Element.cd_setKd (e : Element) {i : Nat} (hi : i < 5) (x : Word32) {j : Nat} (hj : j < 4) :
    (e.setKd i x).cd j = e.cd j :=
  (e.slot_setKd hi x (4 + j)).trans (if_neg (by omega))

theorem Element.cd_setWd (e : Element) {i : Nat} (hi : i < 4) (x : Word32) (j : Nat) :
    (e.setWd i x).cd j = e.cd j :=
  (e.slot_setWd hi x (4 + j)).trans (if_neg (by omega))

theorem Element.wd_setWd (e : Element) {i : Nat} (hi : i < 4) (x : Word32) (j : Nat) :
    (e.setWd i x).wd j = if j = i then x else e.wd j :=
  e.slot_setWd hi x j

/-- Initialize in terms of the entries before: no sum reads the parity word or a sum made before it (R121). -/
theorem Element.initBody_eq_setWd (e : Element) :
    e.initBody =
      ((((e.setKd 4 (parityOf e)).setWd 0 (add32 (e.cd 0) (e.kd 0))).setWd 1 (add32 (e.cd 1) (e.kd 1))).setWd 2
        (add32 (e.cd 2) (e.kd 2))).setWd 3 (add32 (e.cd 3) (e.kd 3)) := by
  have hkeysched : e.keyschedBody = e.setKd 4 (parityOf e) := rfl
  simp (disch := omega) only [initBody, initWord, hkeysched, cd_setWd, kd_setWd, cd_setKd, kd_setKd]

/-- Settles O19: the body writes the parity word and the four sums, and no word read depends on FAULT. -/
theorem initEffect : Obligations.InitEffect := by
  refine fun s => completesWith_effect rfl rfl rfl (fun e => ?_) (fun pc e => ?_) s
  · have hparity := becomes_setKd e (i := 4) (by omega) (parityOf e)
    have hsums := becomes_four_setWd (e.setKd 4 (parityOf e)) (add32 (e.cd 0) (e.kd 0)) (add32 (e.cd 1) (e.kd 1))
      (add32 (e.cd 2) (e.kd 2)) (add32 (e.cd 3) (e.kd 3))
    rw [bodyOf, e.initBody_eq_setWd]
    simpa only [List.append_assoc] using becomes_append hparity hsums (by simp [wordAt])
  · simp only [parityOf, Element.cd, Element.kd, Element.slot_noteReads]

/-! ### The expansions of INIT -/

/-- Writes of two working words in the order of the words. -/
theorem Element.setWd_comm (e : Element) {i j : Nat} (hij : i < j) (hj : j < 4) (x y : Word32) :
    (e.setWd j x).setWd i y = (e.setWd i y).setWd j x := by
  refine element_ext (fun h => ?_) (by simp) (by simp) (by simp) (by simp) (by simp) (by simp)
  simp only [Element.entry_setWd _ hj, Element.entry_setWd _ (hij.trans hj)]
  by_cases hfirst : h = 2 * i ∨ h = 2 * i + 1
  · have hother : h ≠ 2 * j ∧ h ≠ 2 * j + 1 := by omega
    simp only [hother, if_false]
  · rw [not_or] at hfirst
    simp only [hfirst, if_false]

theorem add32_scalarWord_zero (x : Word32) : add32 x (scalarWord 0) = x := add32_zero x

/-- Injection 0 on the counter words is the four sums of Initialize (R122). -/
theorem Element.injectBody_zero_of_counter (e : Element) :
    ((((e.setWd 0 (e.cd 0)).setWd 1 (e.cd 1)).setWd 2 (e.cd 2)).setWd 3 (e.cd 3)).injectBody 0 =
      (((e.initWord 0).initWord 1).initWord 2).initWord 3 := by
  simp (disch := omega) only [injectBody_eq_setWd, kd_setWd, wd_setWd, initWord, cd_setWd, if_neg, if_true,
    add32_scalarWord_zero, setWd_comm, setWd_setWd]

/-- Settles O28: the operations of the first stream are the steps of Initialize; those of the second copy the counter
words to W, and injection 0 adds the key words there. -/
theorem initExpansions : Obligations.InitExpansions := by
  refine fun s => ⟨?_, ?_⟩
  · exact sameEffectOnArrays_of_bodiesOf rfl (by decide) (fun _ => rfl) s
  · refine sameEffectOnArrays_of_bodiesOf rfl (by decide) (fun e => ?_) s
    simp (disch := omega) only [bodiesOf_cons, bodiesOf_nil, bodyOf, add32_scalarWord_zero, Element.slot_setWd, if_neg]
    exact e.keyschedBody.injectBody_zero_of_counter

end Sys2Proof.Machine
end

section
/-! PROOF. GEN computes the generator of native 32-bit words: the words of an element refine native words, and
Initialize, each round and each injection keep it so (43_engine.md R121, R123, R126; 40_halfword_arithmetic.md R95). -/

namespace Sys2Proof.Machine

open Sys2Proof.Claims

/-! ### The words of an element as native words -/

/-- The working words of an element, in the 32-bit view. -/
def workingWords (e : Element) : Words4 := ⟨(e.wd 0).val, (e.wd 1).val, (e.wd 2).val, (e.wd 3).val⟩

/-- The element's scratch words are those of the native key `k`, the parity word among them, and its working words
the native words `x`. -/
def Refines (k x : Words4) (e : Element) : Prop :=
  (∀ i, (e.kd (i % 5)).val = nativeKey k i) ∧ workingWords e = x

theorem Element.kd_congr {e e' : Element} (hks : e'.ks = e.ks) (hseed : e'.seed = e.seed) (i : Nat) :
    e'.kd i = e.kd i := by
  have hhalf : ∀ h, 16 ≤ h → e'.half h = e.half h := fun h hh => by
    have hw : ¬ h < 8 := by omega
    refine Element.half_congr ?_ hseed
    rw [Element.entry, Element.entry, if_neg hw, if_neg hw, if_neg hh.not_gt, if_neg hh.not_gt, hks]
  rw [Element.kd, Element.kd, Element.slot, Element.slot, hhalf _ (by omega), hhalf _ (by omega)]

theorem parityOf_val (e : Element) :
    (parityOf e).val = 0x1BD11BDA ^^^ (e.kd 0).val ^^^ (e.kd 1).val ^^^ (e.kd 2).val ^^^ (e.kd 3).val := by
  have hconst : (Word32.mk 0x1BD1 0x1BDA).val = 0x1BD11BDA := by decide
  simp only [parityOf, xor32_val, hconst]

/-- The five scratch words with the parity word in place are those of the native key. -/
theorem kd_val_eq_nativeKey {e : Element} (hparity : e.kd 4 = parityOf e) (i : Nat) :
    (e.kd (i % 5)).val = nativeKey (keyWords e) i := by
  have hi : i % 5 < 5 := Nat.mod_lt _ (by omega)
  unfold nativeKey
  generalize i % 5 = j at hi
  interval_cases j
  · rfl
  · rfl
  · rfl
  · rfl
  · rw [hparity, parityOf_val]; rfl

/-! ### Each part of the generator -/

/-- Initialize leaves the parity word of the key words, which stay (R121). -/
theorem Element.kd_initBody (e : Element) (i : Nat) :
    e.initBody.kd i = if i = 4 then parityOf e else e.kd i := by
  rw [e.initBody_eq_setWd]
  simp (disch := omega) only [kd_setWd]
  split_ifs with hi
  · subst hi; exact slot_setKd_self e (by omega) _
  · exact e.kd_setKd (by omega) _ hi

/-- Initialize brings the element to the native key and the native sums (R121). -/
theorem refines_initBody (e : Element) :
    Refines (keyWords e)
      ⟨(counterWords e).x0 + (keyWords e).x0, (counterWords e).x1 + (keyWords e).x1,
        (counterWords e).x2 + (keyWords e).x2, (counterWords e).x3 + (keyWords e).x3⟩ e.initBody := by
  have hparity : e.initBody.kd 4 = parityOf e.initBody := by simp [parityOf, e.kd_initBody]
  have hkeys : keyWords e.initBody = keyWords e := by simp [keyWords, e.kd_initBody]
  refine ⟨hkeys ▸ kd_val_eq_nativeKey hparity, ?_⟩
  rw [workingWords, e.initBody_eq_setWd]
  simp (disch := omega) only [Element.wd_setWd, if_neg, if_true, add32_val]
  rfl

/-- An injection adds the native scratch words and the scalar (R114). -/
theorem Refines.injectBody {k x : Words4} {e : Element} (h : Refines k x e) {q : Nat} (hq : q < 2 ^ 16) :
    Refines k (nativeInject k q x) (e.injectBody q) := by
  obtain ⟨hkey, rfl⟩ := h
  refine ⟨fun i => ?_, ?_⟩
  · rw [Element.kd_congr (e.injectBody_ks q) (e.injectBody_seed q), hkey]
  · have hscalar : (scalarWord q).val = BitVec.ofNat 32 q := by
      apply BitVec.eq_of_toNat_eq
      rw [val_toNat]
      simp [scalarWord]
      omega
    rw [workingWords, e.injectBody_eq_setWd]
    simp (disch := omega) only [Element.wd_setWd, if_neg, if_true, add32_val, hkey, hscalar]
    rfl

/-- A round is the native round: its amounts are those of the table (R102). -/
theorem Refines.roundBody {k x : Words4} {e : Element} (h : Refines k x e) (n : Nat) :
    Refines k (nativeRound x n) (e.roundBody n) := by
  obtain ⟨hkey, rfl⟩ := h
  refine ⟨fun i => ?_, ?_⟩
  · rw [Element.kd_congr (e.roundBody_ks n) (e.roundBody_seed n), hkey]
  · have hamount := rotl32_val (hn := specRot_le (2 * n))
    have hamount' := rotl32_val (hn := specRot_le (2 * n + 1))
    obtain hn | hn := Nat.mod_two_eq_zero_or_one n
    · rw [Element.roundBody_even hn, nativeRound, if_pos hn]
      simp (disch := omega) only [workingWords, Element.wd, slot_mix, rot_eq, if_neg, if_true, xor32_val, add32_val,
        hamount, hamount']
    · rw [Element.roundBody_odd hn, nativeRound, if_neg (by omega)]
      simp (disch := omega) only [workingWords, Element.wd, slot_mix, rot_eq, if_neg, if_true, xor32_val, add32_val,
        hamount, hamount']

/-- One turn of the native generator's loop (R123). -/
def nativeTurn (k x : Words4) (n : Nat) : Words4 :=
  nativeRound (if n % 4 = 0 ∧ 0 < n then nativeInject k (n / 4) x else x) n

theorem Refines.genTurn {k x : Words4} {e : Element} (h : Refines k x e) {n : Nat} (hn : n < 2 ^ 16) :
    Refines k (nativeTurn k x n) (e.genTurn n) := by
  refine Refines.roundBody ?_ n
  split_ifs
  · exact h.injectBody (by omega)
  · exact h

theorem Refines.genTurns {k x : Words4} {e : Element} (h : Refines k x e) {ns : List Nat}
    (hns : ∀ n ∈ ns, n < 2 ^ 16) :
    Refines k (ns.foldl (nativeTurn k) x) (ns.foldl Element.genTurn e) := by
  induction ns generalizing x e with
  | nil => exact h
  | cons n ns ih =>
    obtain ⟨hn, hns⟩ := List.forall_mem_cons.1 hns
    exact ih (h.genTurn hn) hns

/-- GEN leaves the words of the native generator (R123). -/
theorem refines_genBody (e : Element) :
    Refines (keyWords e) (nativeGenerator (counterWords e) (keyWords e)) e.genBody := by
  have hrounds : ∀ n ∈ List.range numRounds, n < 2 ^ 16 := by decide
  exact ((refines_initBody e).genTurns hrounds).injectBody (by omega)

theorem workingWords_genBody (e : Element) :
    workingWords e.genBody = nativeGenerator (counterWords e) (keyWords e) := by
  obtain ⟨-, hworking⟩ := refines_genBody e
  exact hworking

/-! ### GEN on an element -/

theorem Element.kd_genBody_parity (e : Element) : e.genBody.kd 4 = parityOf e := by
  have hks : e.genBody.ks = e.initBody.ks := by
    rw [genBody, injectBody_ks, genTurns_ks]
  have hseed : e.genBody.seed = e.initBody.seed := by rw [genBody_seed, initBody_seed]
  rw [kd_congr hks hseed, kd_initBody, if_pos rfl]

/-- GEN writes W and the parity word (R123). -/
theorem genBody_written (e : Element) {h : Nat} (hh : h < 8 ∨ h = 24 ∨ h = 25) :
    (e.genBody.entry h).written = true :=
  (onlyWorking_gen e).keepsWritten h (initBody_written e hh)

@[simp] theorem counterWords_noteReads (pc : Nat) (reads : List Nat) (e : Element) :
    counterWords (e.noteReads pc reads) = counterWords e := by
  simp only [counterWords, Element.cd, Element.slot_noteReads]

@[simp] theorem keyWords_noteReads (pc : Nat) (reads : List Nat) (e : Element) :
    keyWords (e.noteReads pc reads) = keyWords e := by
  simp only [keyWords, Element.kd, Element.slot_noteReads]

@[simp] theorem parityOf_noteReads (pc : Nat) (reads : List Nat) (e : Element) :
    parityOf (e.noteReads pc reads) = parityOf e := by
  simp only [parityOf, Element.kd, Element.slot_noteReads]

/-- Settles O21: the body refines the native generator, writes W and the parity word alone, and neither counter nor
key depends on FAULT. -/
theorem genIsNativeThreefry : Obligations.GenIsNativeThreefry := by
  refine fun s => completesWith_of_body rfl fun e _ => ?_
  have hwords := workingWords_genBody (e.noteReads s.pc (readsOf .gen))
  rw [counterWords_noteReads, keyWords_noteReads] at hwords
  rw [bodyOf]
  refine ⟨congrArg Words4.x0 hwords, congrArg Words4.x1 hwords, congrArg Words4.x2 hwords, congrArg Words4.x3 hwords,
    ?_, fun h hh => genBody_written _ hh, fun h hh => ?_, by simp, by simp, by simp, by simp, by simp, ?_⟩
  · rw [Element.kd_genBody_parity, parityOf_noteReads]
  · rw [genBody_entry _ (by omega), Element.entry_noteReads]
  · rw [FaultAfter, Element.genBody_fault, Element.noteReads_fault]; rfl

/-! ### The output as a function of counter and key -/

/-- A read of an entry is a half of the slot it lies in (R43). -/
theorem Element.half_eq_of_slot {e e' : Element} {h : Nat} (hs : e.slot (h / 2) = e'.slot (h / 2)) :
    e.half h = e'.half h := by
  obtain ⟨hhi, hlo⟩ := Word32.mk.inj hs
  obtain hh | hh : h = 2 * (h / 2) ∨ h = 2 * (h / 2) + 1 := by omega
  · rw [hh]; exact hhi
  · rw [hh]; exact hlo

/-- Entries that are written and read the same are the same. -/
theorem Element.entry_eq_of_half {e e' : Element} {h : Nat} (hw : (e.entry h).written = true)
    (hw' : (e'.entry h).written = true) (hh : e.half h = e'.half h) : e.entry h = e'.entry h := by
  rw [half, half, if_pos hw, if_pos hw'] at hh
  rw [Entry.mk.injEq, hw, hw']
  exact ⟨hh, rfl⟩

/-- Elements with the same working words in the 32-bit view have the same slots 0 to 3. -/
theorem slot_eq_of_workingWords {e e' : Element} (h : workingWords e = workingWords e') {i : Nat} (hi : i < 4) :
    e.slot i = e'.slot i := by
  obtain ⟨h₀, h₁, h₂, h₃⟩ := Words4.mk.inj h
  interval_cases i
  · exact val_injective h₀
  · exact val_injective h₁
  · exact val_injective h₂
  · exact val_injective h₃

/-- GEN on elements with the same counter and key words leaves the same output (R126). -/
theorem genBody_entry_eq {e e' : Element} (hcd : ∀ i < 4, e.cd i = e'.cd i) (hkd : ∀ i < 4, e.kd i = e'.kd i)
    {h : Nat} (hh : h < 8 ∨ h = 24 ∨ h = 25) : e.genBody.entry h = e'.genBody.entry h := by
  refine Element.entry_eq_of_half (genBody_written e hh) (genBody_written e' hh) (Element.half_eq_of_slot ?_)
  by_cases hw : h < 8
  · refine slot_eq_of_workingWords ?_ (by omega)
    simp (disch := omega) only [workingWords_genBody, counterWords, keyWords, hcd, hkd]
  · have hparity : e.genBody.kd 4 = e'.genBody.kd 4 := by
      simp (disch := omega) only [Element.kd_genBody_parity, parityOf, hkd]
    have hs : h / 2 = 12 := by omega
    rw [hs]; exact hparity

/-- Settles O32: the output is the native generator's and the parity word, which read the counter and the key words
alone. -/
theorem genIsAFunctionOfCounterAndKey : Obligations.GenIsAFunctionOfCounterAndKey := by
  intro s₁ s₂ t₁ t₂ k₁ k₂ e₁ e₂ e₁' e₂' h₁ h₂ he₁ he₂ he₁' he₂' hsame h hh
  rw [exec_getElem h₁, he₁, Option.map_some, Option.some.injEq] at he₁'
  rw [exec_getElem h₂, he₂, Option.map_some, Option.some.injEq] at he₂'
  have hslot : ∀ i, 4 ≤ i → i < 12 → e₁.slot i = e₂.slot i := fun i h4 h12 =>
    congrArg₂ Word32.mk (hsame _ (by omega) (by omega)) (hsame _ (by omega) (by omega))
  subst he₁' he₂'
  refine genBody_entry_eq (fun i hi => ?_) (fun i hi => ?_) hh
  · simpa only [Element.cd, Element.slot_noteReads] using hslot (4 + i) (by omega) (by omega)
  · simpa only [Element.kd, Element.slot_noteReads] using hslot (8 + i) (by omega) (by omega)

/-! ### The known answer -/

/-- The native generator on the source's known-answer input (R123). -/
theorem nativeGenerator_known_answer :
    nativeGenerator ⟨0, 0, 0, 1⟩ ⟨0, 0, 0, 0x00010001⟩ = ⟨0x39C8D6F9, 0xB48F659A, 0xFEDF25BD, 0xE347D3B7⟩ := by
  rfl

/-- Settles O22: GEN leaves the native generator's words, whose known answer is evaluated in native arithmetic. -/
theorem genKnownAnswer : Obligations.GenKnownAnswer := by
  intro s k e he hc₀ hc₁ hc₂ hc₃ hk₀ hk₁ hk₂ hk₃
  have hexec := exec_legal (i := .gen) rfl s
  refine ⟨_, _, hexec, by rw [exec_getElem hexec, he]; rfl, ?_⟩
  have hcounter : counterWords e = ⟨0, 0, 0, 1⟩ := by rw [counterWords, hc₀, hc₁, hc₂, hc₃]; rfl
  have hkey : keyWords e = ⟨0, 0, 0, 0x00010001⟩ := by rw [keyWords, hk₀, hk₁, hk₂, hk₃]; rfl
  have hwords := workingWords_genBody (e.noteReads s.pc (readsOf .gen))
  rw [counterWords_noteReads, keyWords_noteReads, hcounter, hkey, nativeGenerator_known_answer] at hwords
  obtain ⟨h₀, h₁, h₂, h₃⟩ := Words4.mk.inj hwords
  exact ⟨val_injective h₀, val_injective h₁, val_injective h₂, val_injective h₃⟩

end Sys2Proof.Machine
end

section
/-! PROOF. GEN written out: the 26 operations leave every element as GEN does, its FAULT among it, since after INIT every
entry read is written or FAULT is set; and each of them is a stream of primitive operations (43_engine.md R124, R183;
10_state.md R35). -/

namespace Sys2Proof.Machine

open Sys2Proof.Claims

/-! ### Operations that record no FAULT -/

/-- No operation of the generator after INIT records a FAULT: one is set already, or all they read is written. -/
def Settled (e : Element) : Prop := e.fault ≠ none ∨ AllWritten e generatorReads

theorem Element.noteReads_of_fault {e : Element} (h : e.fault ≠ none) (pc : Nat) (reads : List Nat) :
    e.noteReads pc reads = e := by
  unfold Element.noteReads
  split
  · rfl
  · contradiction

theorem Settled.noteReads_eq {e : Element} (h : Settled e) {reads : List Nat} (hreads : reads ⊆ generatorReads)
    (pc : Nat) : e.noteReads pc reads = e := by
  obtain hf | hw := h
  · exact Element.noteReads_of_fault hf pc reads
  · exact (hw.subset hreads).noteReads_eq pc

/-- An operation that keeps FAULT and what is written leaves the element settled. -/
theorem Settled.mono {e e' : Element} (h : Settled e) (hf : e'.fault = e.fault) (hk : KeepsWritten e e') :
    Settled e' := by
  rw [Settled, hf]
  exact h.imp_right fun hw => hw.mono hk

/-- INIT leaves an element settled: a key word not written has made it record FAULT (R35, R183). -/
theorem settled_init (pc : Nat) (e : Element) :
    Settled (e.noteReads pc (keyReads ++ counterReads)).initBody := by
  by_cases hf : (e.noteReads pc (keyReads ++ counterReads)).fault = none
  · have hw := (allWritten_append.1 (allWritten_of_noteReads_fault hf)).1
    rw [(allWritten_of_noteReads_fault hf).noteReads_eq]
    exact .inr (allWritten_initBody hw)
  · exact .inl (by rwa [Element.initBody_fault])

/-- A legal operation that writes W alone and reads W and KS alone: the kind of which GEN's stream is after INIT. -/
abbrev IsGeneratorOperation (i : Instr) : Prop :=
  i.WellFormed ∧ readsOf i ⊆ generatorReads ∧ i ∉ [.keyid, .keysched, .init, .gen]

theorem Settled.operation {i : Instr} (hi : IsGeneratorOperation i) {e : Element} (h : Settled e) :
    Settled (bodyOf i e) := by
  obtain ⟨-, -, hkind⟩ := hi
  simp only [List.mem_cons, List.not_mem_nil, or_false, not_or] at hkind
  obtain ⟨hid, hks, hin, hgen⟩ := hkind
  exact h.mono (bodyOf_fault i e) (onlyWorking_bodyOf e hid hks hin hgen).keepsWritten

/-- On settled elements such a stream does what its bodies do, and nothing to FAULT. -/
theorem execAll_elems_of_settled {is : List Instr} (his : ∀ i ∈ is, IsGeneratorOperation i) {s u : State}
    (hs : ∀ e ∈ s.elems, Settled e) (h : execAll is s = .next u) : u.elems = s.elems.map (bodiesOf is) := by
  induction is generalizing s with
  | nil => obtain rfl : s = u := Host.Outcome.next.inj h; exact (List.map_id s.elems).symm
  | cons i is ih =>
    obtain ⟨hi, his⟩ := List.forall_mem_cons.1 his
    obtain ⟨hlegal, hreads, -⟩ := id hi
    rw [execAll, exec_legal hlegal] at h
    have helems : (s.lockstep (readsOf i) (bodyOf i)).elems = s.elems.map (bodyOf i) :=
      List.map_congr_left fun e he => by rw [(hs e he).noteReads_eq hreads]
    rw [ih his (by rw [helems]; exact List.forall_mem_map.2 fun e he => (hs e he).operation hi) h, helems, List.map_map]
    rfl

/-! ### The stream of 26 operations -/

theorem bodiesOf_append (is js : List Instr) (e : Element) :
    bodiesOf (is ++ js) e = bodiesOf js (bodiesOf is e) := List.foldl_append

/-- Streams put together one for each member of a list. -/
theorem bodiesOf_flatMap {α : Type} {f : α → List Instr} {g : Element → α → Element}
    (hf : ∀ a e, bodiesOf (f a) e = g e a) (as : List α) (e : Element) :
    bodiesOf (as.flatMap f) e = as.foldl g e := by
  induction as generalizing e with
  | nil => rfl
  | cons a as ih => rw [List.flatMap_cons, bodiesOf_append, hf, ih, List.foldl_cons]

/-- The operations of one turn of GEN's loop (R124). -/
def turnStream (n : Nat) : List Instr :=
  if n % 4 = 0 ∧ 0 < n then [.inject (n / 4), .round n] else [.round n]

theorem bodiesOf_turnStream (n : Nat) (e : Element) : bodiesOf (turnStream n) e = e.genTurn n := by
  unfold turnStream Element.genTurn
  split_ifs <;> rfl

theorem genStream_eq : genStream = [.init] ++ (List.range numRounds).flatMap turnStream ++ [.inject 5] := by
  decide

/-- The bodies of the stream are Initialize, the turns and the last injection. -/
theorem bodiesOf_genStream (e : Element) : bodiesOf genStream e = e.genBody := by
  rw [genStream_eq, bodiesOf_append, bodiesOf_append, bodiesOf_flatMap bodiesOf_turnStream]
  rfl

/-- What follows INIT in the stream, after Initialize. -/
theorem bodiesOf_genStream_tail (e : Element) : bodiesOf genStream.tail e.initBody = e.genBody := by
  rw [← bodiesOf_genStream, genStream, bodiesOf_cons]; rfl

theorem genStream_legal : ∀ i ∈ genStream, i.WellFormed := by decide

theorem genStream_tail : ∀ i ∈ genStream.tail, IsGeneratorOperation i := by decide

/-- The stream leaves each element as GEN does: INIT records what GEN would, and no later operation does. -/
theorem execAll_genStream_elems {s u : State} (h : execAll genStream s = .next u) :
    u.elems = (s.lockstep (readsOf .gen) Element.genBody).elems := by
  have hinit : exec .init s = .next (s.lockstep (readsOf .gen) Element.initBody) := exec_legal rfl s
  have htail : execAll genStream.tail (s.lockstep (readsOf .gen) Element.initBody) = .next u := by
    rw [genStream, execAll, hinit] at h; exact h
  rw [execAll_elems_of_settled genStream_tail (List.forall_mem_map.2 fun e _ => settled_init s.pc e) htail,
    State.lockstep_elems, State.lockstep_elems, List.map_map]
  refine List.map_congr_left fun e _ => ?_
  rw [Function.comp_apply, bodiesOf_genStream_tail]

/-! ### Primitive operations -/

/-- The expansion of an operation has its effect (R101, R103, R115, R122). -/
theorem bodiesOf_expand (i : Instr) (e : Element) : bodiesOf (expand i) e = bodyOf i e := by
  cases i with
  | round n =>
    rw [expand, bodyOf]
    split_ifs with hn
    · rw [Element.roundBody_even hn]; rfl
    · rw [Element.roundBody_odd (by omega)]; rfl
  | _ => rfl

/-- A stream written out in primitive operations has the effect of the stream. -/
theorem bodiesOf_flatMap_expand (is : List Instr) (e : Element) :
    bodiesOf (is.flatMap expand) e = bodiesOf is e := bodiesOf_flatMap bodiesOf_expand is e

theorem genStream_expand_legal : ∀ i ∈ genStream.flatMap expand, i.WellFormed := by
  have hlegal : ∀ i ∈ genStream, ∀ j ∈ expand i, j.WellFormed := by decide
  simpa only [List.forall_mem_flatMap] using hlegal

/-- A round is six primitive operations, three for each Mix (R101, R103). -/
theorem expand_round_length (n : Nat) : (expand (.round n)).length = 6 := by
  rw [expand]
  split_ifs <;> rfl

/-- An injection is five primitive operations (R115). -/
theorem expand_inject_length (q : Nat) : (expand (.inject q)).length = 5 := rfl

/-- INIT is five primitive operations (R122). -/
theorem expand_init_length : (expand .init).length = 5 := rfl

theorem genStream_expand_length : (genStream.flatMap expand).length = 150 := by
  simp only [genStream, List.length_flatMap, List.map_cons, List.map_nil, List.sum_cons, List.sum_nil,
    expand_init_length, expand_round_length, expand_inject_length, Nat.reduceAdd]

/-- Settles O29: the bodies of the stream, and those of its expansion, are the body of GEN. -/
theorem genIsItsStream : Obligations.GenIsItsStream := by
  refine ⟨fun s => ?_, by decide, genStream_expand_length, fun s => ?_⟩
  · obtain ⟨u, hu, hpc, hkept, -⟩ := execAll_legal genStream_legal s
    exact ⟨_, u, exec_legal rfl s, hu, (execAll_genStream_elems hu).symm, State.lockstep_pc _ _ s, hpc,
      sequencerKept_lockstep _ _ s, hkept⟩
  · refine sameEffectOnArrays_of_bodiesOf rfl genStream_expand_legal (fun e => ?_) s
    rw [bodiesOf_flatMap_expand, bodiesOf_genStream, bodyOf]

end Sys2Proof.Machine
end

section
/-! PROOF. DUMP: the record it appends, completion, frame and FAULT; and that a stream leaves the arrays as it does
without its DUMPs, since no operation reads what they record (44_diagnostic.md R130, R131; 10_state.md R29, R35). -/

namespace Sys2Proof.Machine

open Sys2Proof.Claims

/-- Recording changes no array and no identity. -/
theorem becomes_nil_dumpBody (h : Nat) (e : Element) : Becomes [] e (e.dumpBody h) :=
  ⟨List.forall_mem_nil _, fun _ _ => rfl, rfl, rfl, rfl, rfl⟩

/-- The record is the value read, whatever FAULT records on the way (R130). -/
theorem dumpBody_noteReads_trace (h pc : Nat) (reads : List Nat) (e : Element) :
    ((e.noteReads pc reads).dumpBody h).trace = e.trace ++ [(h, e.half h)] := by
  rw [Element.dumpBody, Element.noteReads_trace, Element.half_noteReads]

/-- Settles O20: the body appends the record alone, and reads the one entry that it records. -/
theorem dumpEffect : Obligations.DumpEffect := by
  refine fun s h hh => completesWith_of_body (Instr.wellFormed_dump.2 hh) fun e _ => ⟨?_, ?_, ?_⟩
  · exact (becomes_noteReads_iff s.pc [h]).1 (becomes_nil_dumpBody h (e.noteReads s.pc [h]))
  · exact dumpBody_noteReads_trace h s.pc [h] e
  · rw [FaultAfter, bodyOf_fault, readsOf, Element.noteReads_fault]

/-! ### Streams without their DUMPs -/

/-- Every operation of a stream that completes is legal. -/
theorem wellFormed_of_execAll {is : List Instr} {s t : State} (h : execAll is s = .next t) :
    ∀ i ∈ is, i.WellFormed := by
  induction is generalizing s with
  | nil => exact List.forall_mem_nil _
  | cons i is ih =>
    cases he : exec i s with
    | next u =>
      rw [execAll, he] at h
      obtain ⟨hi, -⟩ := exec_next he
      exact List.forall_mem_cons.2 ⟨hi, ih h⟩
    | fault f => rw [execAll, he] at h; cases h
    | refused r => rw [execAll, he] at h; cases h

/-- DUMP changes nothing of an element but its records. -/
theorem bodyOf_unrecorded_of_isDump {i : Instr} (hd : isDump i = true) (e : Element) :
    (bodyOf i e).unrecorded = e.unrecorded := by
  cases i with
  | dump h => rfl
  | _ => cases hd

/-- But for the records a stream does what it does without its DUMPs: each DUMP leaves the element to the next
operation as it was, and none reads the records. -/
theorem bodiesOf_filter_not_isDump (is : List Instr) (e : Element) :
    (bodiesOf (is.filter (fun i => !isDump i)) e).unrecorded = (bodiesOf is e).unrecorded := by
  induction is generalizing e with
  | nil => rfl
  | cons i is ih =>
    cases hd : isDump i with
    | true =>
      rw [List.filter_cons_of_neg (by simp [hd]), ih, bodiesOf_cons]
      exact bodiesOf_congr is (bodyOf_unrecorded_of_isDump hd e).symm
    | false => rw [List.filter_cons_of_pos (by simp [hd]), bodiesOf_cons, bodiesOf_cons, ih]

/-- Lists of elements equal but for their records have the same arrays. -/
theorem forall₂_sameArrays_of_unrecorded {es es' : List Element}
    (h : es.map Element.unrecorded = es'.map Element.unrecorded) : List.Forall₂ SameArrays es es' := by
  rw [← List.forall₂_eq_eq_eq, List.forall₂_map_left_iff, List.forall₂_map_right_iff] at h
  exact h.imp fun _ _ => sameArrays_of_unrecorded

/-- Settles O33: what is left of a legal stream is legal, and its bodies leave every element as those of the whole
stream do but for the records. -/
theorem dumpsDoNotFeedBack : Obligations.DumpsDoNotFeedBack := by
  intro is s t ht
  have hlegal := wellFormed_of_execAll ht
  obtain ⟨t', ht', -, -, hwhole⟩ := execAll_legal hlegal s
  obtain rfl : t = t' := Host.Outcome.next.inj (ht.symm.trans ht')
  obtain ⟨u, hu, -, -, hrest⟩ := execAll_legal (fun i hi => hlegal i (List.mem_of_mem_filter hi)) s
  refine ⟨u, hu, forall₂_sameArrays_of_unrecorded ?_⟩
  rw [hwhole, hrest]
  exact List.map_congr_left fun e _ => (bodiesOf_filter_not_isDump is e).symm

end Sys2Proof.Machine
end

section
/-! PROOF. A run under the invariant: each step issues one legal operation and completes, and after LEN - pc steps the
run has ended (10_state.md R27, R35; 60_exceptions.md R140, R160). -/

namespace Sys2Proof.Machine

/-- Settles O44: the word at pc is legal, and a legal operation completes on every state. -/
theorem runsNeverFault : Obligations.RunsNeverFault := fun _ hinv hs =>
  let ⟨_, _, hstep⟩ := step_of_inv_running hinv hs
  ⟨_, hstep⟩

/-- The STATUS of a run at its pc: RUNNING while a word is left, DONE at LEN (R27, R160). -/
def State.runStatus (s : State) : Status := if s.pc < s.len then .running else .done

theorem endRun_status {s : State} (hs : s.status = .running) : s.endRun.status = s.runStatus := by
  rw [State.endRun_eq, State.runStatus, hs]
  simp only [true_and, ← Nat.not_lt, ite_not]

/-- A step of a run under the invariant issues one word, and the run is over with the last (log 9). -/
theorem step_advances_of_inv_running {s : State} (hinv : s.Inv) (hs : s.status = .running) :
    ∃ t, step s = .next t ∧ t.Inv ∧ t.pc = s.pc + 1 ∧ t.len = s.len ∧ t.status = t.runStatus := by
  obtain ⟨i, -, hstep⟩ := step_of_inv_running hinv hs
  refine ⟨_, hstep, stepKeepsInvariant _ _ hinv hstep, by simp, by simp [State.len], ?_⟩
  rw [endRun_status (by simpa using hs)]
  simp [State.runStatus, State.len]

/-- As many steps as there are words left, or fewer, each issue one word (R160). -/
theorem run_advances_of_inv {k : Nat} {s : State} (hinv : s.Inv) (hs : s.status = s.runStatus)
    (hk : s.pc + k ≤ s.len) :
    ∃ t : State, Host.Core.run Sys2Proof.core k s = .next t ∧ t.pc = s.pc + k ∧ t.len = s.len ∧
      t.status = t.runStatus := by
  induction k generalizing s with
  | zero => exact ⟨s, rfl, rfl, rfl, hs⟩
  | succ k ih =>
    have hrun : s.status = .running := hs.trans (if_pos (by omega))
    obtain ⟨u, hstep, huinv, hupc, hulen, hu⟩ := step_advances_of_inv_running hinv hrun
    obtain ⟨t, ht, htpc, htlen, hstatus⟩ := ih huinv hu (by omega)
    refine ⟨t, ?_, by omega, htlen.trans hulen, hstatus⟩
    simpa only [Host.Core.run, Sys2Proof.core, hstep] using ht

/-- Settles O45: by induction on the number of steps a run of k steps stands at pc + k, and its STATUS is the one
of that place. -/
theorem runsEndAfterLenSteps : Obligations.RunsEndAfterLenSteps := by
  intro s hinv hs
  have hlt : s.pc < s.len := hinv.running hs
  have hstatus : s.status = s.runStatus := hs.trans (if_pos hlt).symm
  refine ⟨fun k hk => ?_, ?_⟩
  · obtain ⟨t, ht, hpc, hlen, hrun⟩ := run_advances_of_inv hinv hstatus (k := k) (by omega)
    exact ⟨t, ht, hrun.trans (if_pos (by omega)), hpc⟩
  · obtain ⟨t, ht, hpc, hlen, hrun⟩ := run_advances_of_inv hinv hstatus (k := s.len - s.pc) (by omega)
    have hdone : t.status = .done := hrun.trans (if_neg (by omega))
    exact ⟨t, ht, hdone, by omega, by simp [State.Final, hdone]⟩

end Sys2Proof.Machine
end

section
/-! PROOF. Which actions the host has in each STATUS, what Start does, and what the host's reads return (10_state.md
R26, R27; 60_exceptions.md R152, R153, R160, R163). -/

namespace Sys2Proof.Machine

/-! ### Actions that are not allowed -/

theorem atRest_eq_false_iff (s : State) : s.atRest = false ↔ s.status = .running ∨ s.status = .rejected := by
  unfold State.atRest; cases s.status <;> simp

/-- Where STATUS is neither IDLE nor DONE, no action but Reset and ReadStatus is allowed (R163). -/
theorem hostAct_of_not_atRest {s : State} (hrest : s.atRest = false) {a : HostAction} (hreset : a ≠ .reset)
    (hread : a ≠ .readStatus) : s.hostAct a = none := by
  cases a with
  | reset => exact absurd rfl hreset
  | readStatus => exact absurd rfl hread
  | _ => simp [State.hostAct, hrest]

/-- Settles O57: Reset has a check of its own, and every other action but ReadStatus wants the machine at rest. -/
theorem hostCannotActOnARun : Obligations.HostCannotActOnARun := by
  refine fun s a hs => ⟨fun hread => ?_, by rw [State.hostAct, State.statusReply, hs, Status.number]⟩
  by_cases hreset : a = .reset
  · rw [hreset, State.hostAct, if_pos hs]
  · exact hostAct_of_not_atRest ((atRest_eq_false_iff s).2 (.inl hs)) hreset hread

/-! ### Start -/

/-- A run of no words has already ended; any other is in progress (R160, log 9). -/
theorem endRun_start (s : State) {ws : List OpWord} (hws : s.stream = some ws) :
    ({ s with pc := 0, status := .running } : State).endRun =
      { s with pc := 0, status := if ws = [] then .done else .running } := by
  rw [State.endRun_eq]
  simp [State.len, hws]

/-- Settles O54: the checks of Start, and the end of a run of no words. -/
theorem startBeginsARun : Obligations.StartBeginsARun := by
  refine fun s ws => ⟨fun hs hm hws => ?_, fun hnot => ?_⟩
  · have hrest : s.atRest = true := (atRest_iff s).2 hs
    rw [State.hostAct, if_pos (by simp [hrest, hm, hws]), endRun_start s hws]
  · refine if_neg ?_
    obtain hnone | hdue := hnot
    · simp [hnone]
    · simp [hdue]

/-! ### The host's reads -/

/-- The host's numbering of the arrays and the flat one (R21, R42). -/
theorem Element.arrayEntry_w (e : Element) {j : Nat} (hj : j < 8) : e.arrayEntry .w j = some (e.entry j) := by
  simp [Element.arrayEntry, Element.entry, hj]

theorem Element.arrayEntry_ctr (e : Element) {j : Nat} (hj : j < 8) :
    e.arrayEntry .ctr j = some (e.entry (8 + j)) := by
  simp [Element.arrayEntry, Element.entry, hj, show 8 + j < 16 by omega]

theorem Element.arrayEntry_ks (e : Element) {j : Nat} (hj : j < 10) :
    e.arrayEntry .ks j = some (e.entry (16 + j)) := by
  simp [Element.arrayEntry, Element.entry, hj, show ¬ 16 + j < 8 by omega]

/-- HostRead returns what an operation would read, if the entry is written (R35, U13). -/
theorem Element.hostValue_entry (e : Element) (h : Nat) :
    (e.entry h).hostValue = if (e.entry h).written then some (e.half h) else none := by
  cases hw : (e.entry h).written <;> simp [Entry.hostValue, Element.half, hw]

/-- On a grid without equal identities the host finds the element it names (R148, R156). -/
theorem find?_isAt_of_nodup {es : List Element} (hids : (es.map (fun e => (e.row, e.col))).Nodup) {e : Element}
    (he : e ∈ es) : es.find? (Element.isAt e.row e.col) = some e := by
  obtain ⟨u, hu⟩ := Option.isSome_iff_exists.1
    (List.find?_isSome.2 ⟨e, he, (Element.isAt_iff e.row e.col e).2 ⟨rfl, rfl⟩⟩)
  obtain ⟨hrow, hcol⟩ := (Element.isAt_iff _ _ _).1 (List.find?_some hu)
  rw [hu, List.inj_on_of_nodup_map hids (List.mem_of_find?_eq_some hu) he (Prod.ext hrow hcol)]

/-- HostRead at rest of an entry of the element found (R163). -/
theorem hostAct_hostRead {s : State} {row col : Half} {array : ArrayName} {j h : Nat} {e : Element}
    (hrest : s.atRest = true) (hfind : s.elems.find? (Element.isAt row col) = some e)
    (hentry : e.arrayEntry array j = some (e.entry h)) :
    s.hostAct (.hostRead row col array j) =
      some (.entry (if (e.entry h).written then some (e.half h) else none), s) := by
  simp only [State.hostAct, hrest, if_true, hfind, hentry, Option.map_some, e.hostValue_entry]

/-- Settles O59: the element found is the one named, and the entry read is that of the flat numbering. -/
theorem hostReads : Obligations.HostReads := by
  intro s e hs hids he
  have hrest : s.atRest = true := (atRest_iff s).2 hs
  have hfind := find?_isAt_of_nodup hids he
  refine ⟨fun j hj => hostAct_hostRead hrest hfind (e.arrayEntry_w hj),
    fun j hj => hostAct_hostRead hrest hfind (e.arrayEntry_ctr hj),
    fun j hj => hostAct_hostRead hrest hfind (e.arrayEntry_ks hj), ?_, rfl⟩
  rw [State.hostAct, if_pos hrest, hfind, Option.map_some]

end Sys2Proof.Machine
end

section
/-! PROOF. Construct: which parameters its checks refuse, in their order, and the grid it makes of good ones
(10_state.md R25, R29; 60_exceptions.md R143, R148, R150, R163). -/

namespace Sys2Proof.Machine

open Sys2Proof.Claims

/-! ### Where Construct is allowed -/

/-- Construct where it is allowed: at rest, on a grid not constructed (R163, log 13). -/
theorem hostAct_construct {s : State} (hs : s.status = .idle ∨ s.status = .done) (hc : s.constructed = false)
    (rows cols : Nat) (l : ArrayLengths) (ps : List ElementSpec) :
    s.hostAct (.construct rows cols l ps) = some (.ack, s.construct rows cols l ps) := by
  simp [State.hostAct, (atRest_iff s).2 hs, hc]

theorem hostAct_construct_of_constructed {s : State} (hc : s.constructed = true) (rows cols : Nat)
    (l : ArrayLengths) (ps : List ElementSpec) : s.hostAct (.construct rows cols l ps) = none := by
  simp [State.hostAct, hc]

/-- Construct with parameters that a check refuses (R151). -/
theorem hostAct_construct_of_error {s : State} (hs : s.status = .idle ∨ s.status = .done)
    (hc : s.constructed = false) {rows cols : Nat} {l : ArrayLengths} {ps : List ElementSpec} {err : Err}
    (herr : constructError rows cols l ps = some err) :
    s.hostAct (.construct rows cols l ps) = some (.ack, { s with status := .rejected, err := err }) := by
  rw [hostAct_construct hs hc, State.construct, herr]
  rfl

/-! ### The check of the grid -/

/-- In a good grid no two elements at different places have one identity (R148). -/
theorem ne_identity_of_gridOk {rows cols : Nat} {ps : List ElementSpec} (hok : gridOk rows cols ps = true)
    {i j : Nat} {p q : ElementSpec} (hij : i < j) (hp : ps[i]? = some p) (hq : ps[j]? = some q) :
    (p.row, p.col) ≠ (q.row, q.col) := by
  obtain ⟨-, -, -, hnodup⟩ := gridOk_iff.1 hok
  have hj : j < ps.length := (List.getElem?_eq_some_iff.1 hq).1
  have hne := List.nodup_iff_getElem?_ne_getElem?.1 hnodup i j hij (by simpa using hj)
  simpa [hp, hq] using hne

theorem constructError_of_bad_grid {rows cols : Nat} {ps : List ElementSpec} (hg : gridOk rows cols ps = false)
    (l : ArrayLengths) : constructError rows cols l ps = some ⟨.grid, 0⟩ := by
  simp [constructError, hg]

/-- Settles O48: a good grid would meet none of the clauses, and the grid is checked first. -/
theorem constructRejectsBadGrids : Obligations.ConstructRejectsBadGrids := by
  intro s rows cols l ps hs hc hbad
  refine hostAct_construct_of_error hs hc (constructError_of_bad_grid (Bool.eq_false_iff.2 fun hok => ?_) l)
  obtain ⟨⟨hr₁, hr₂, hc₁, hc₂⟩, -, hin, -⟩ := gridOk_iff.1 hok
  unfold Config.maxGrid at hr₂ hc₂
  obtain hbad | hbad | hbad | hbad | ⟨p, hp, hout⟩ | ⟨i, j, p, q, hij, hp, hq, hrow, hcol⟩ := hbad
  · omega
  · omega
  · omega
  · omega
  · have := hin p hp
    omega
  · exact ne_identity_of_gridOk hok hij hp hq (Prod.ext hrow hcol)

/-! ### The checks of the lengths -/

theorem imageOk_iff {n : Nat} {image : Option (List Half)} :
    imageOk n image = true ↔ ∀ v, image = some v → v.length = n := by
  cases image <;> simp [imageOk]

/-- What the checks of a good grid's lengths answer, in the order of R150. -/
theorem constructError_of_gridOk {rows cols : Nat} {ps : List ElementSpec} (hg : gridOk rows cols ps = true)
    (l : ArrayLengths) :
    constructError rows cols l ps =
      if l.w ≠ 8 then some ⟨.arrayLength, 0⟩
      else if l.ctr ≠ 8 ∨ ∃ p ∈ ps, ∃ v, p.ctrImage = some v ∧ v.length ≠ 8 then some ⟨.arrayLength, 1⟩
      else if l.ks ≠ 10 ∨ ∃ p ∈ ps, ∃ v, p.keyImage = some v ∧ v.length ≠ 8 then some ⟨.arrayLength, 2⟩
      else none := by
  have himages (image : ElementSpec → Option (List Half)) :
      (!ps.all fun p => imageOk 8 (image p)) = true ↔ ∃ p ∈ ps, ∃ v, image p = some v ∧ v.length ≠ 8 := by
    simp [← Bool.not_eq_true, imageOk_iff]
  simp only [constructError, hg, Config.lengthW, Config.lengthCtr, Config.lengthKs, Config.lengthKeyImage, himages,
    Bool.not_true, Bool.false_eq_true, if_false]

theorem no_bad_image {ps : List ElementSpec} {image : ElementSpec → Option (List Half)}
    (h : ∀ p ∈ ps, ∀ v, image p = some v → v.length = 8) : ¬ ∃ p ∈ ps, ∃ v, image p = some v ∧ v.length ≠ 8 :=
  fun ⟨p, hp, v, hv, hne⟩ => hne (h p hp v hv)

/-- Good parameters pass the checks. -/
theorem constructError_of_good {rows cols : Nat} {ps : List ElementSpec} (hg : gridOk rows cols ps = true)
    (hctr : ∀ p ∈ ps, ∀ v, p.ctrImage = some v → v.length = 8)
    (hkey : ∀ p ∈ ps, ∀ v, p.keyImage = some v → v.length = 8) :
    constructError rows cols ⟨8, 8, 10⟩ ps = none := by
  rw [constructError_of_gridOk hg, if_neg (not_not.2 rfl), if_neg (not_or.2 ⟨not_not.2 rfl, no_bad_image hctr⟩),
    if_neg (not_or.2 ⟨not_not.2 rfl, no_bad_image hkey⟩)]

/-- Settles O49: of the checks in their order, the first that fails answers. -/
theorem constructRejectsBadLengths : Obligations.ConstructRejectsBadLengths := by
  intro s rows cols l ps hs hc hg
  have hcheck := constructError_of_gridOk hg l
  refine ⟨fun hw => ?_, fun hw hctr => ?_, fun hw hctr himages hks => ?_⟩
  · exact hostAct_construct_of_error hs hc (by rw [hcheck, if_pos hw])
  · exact hostAct_construct_of_error hs hc (by rw [hcheck, if_neg (not_not.2 hw), if_pos hctr])
  · have hgood := not_or.2 ⟨not_not.2 hctr, no_bad_image himages⟩
    exact hostAct_construct_of_error hs hc (by rw [hcheck, if_neg (not_not.2 hw), if_neg hgood, if_pos hks])

/-! ### The elements Construct makes -/

/-- Entry h of a new element: W blank, CTR and KS from their images (R163, log 12). -/
theorem newElement_entry (seed : Nat) (p : ElementSpec) {h : Nat} (hh : h < 26) :
    (newElement seed p).entry h =
      if h < 8 then Entry.blank
      else if h < 16 then imageEntry p.ctrImage (h - 8) else imageEntry p.keyImage (h - 16) := by
  unfold Element.entry newElement
  split_ifs with h8 h16
  · simp [h8]
  · simp [show h - 8 < 8 by omega]
  · simp [show h - 16 < 10 by omega]

/-- Beyond a good image no entry is written. -/
theorem imageEntry_beyond {image : Option (List Half)} (hlen : ∀ v, image = some v → v.length = 8) {j : Nat}
    (hj : 8 ≤ j) : imageEntry image j = Entry.blank := by
  have hnone : (image.getD [])[j]? = none := by
    cases image with
    | none => rfl
    | some v => exact List.getElem?_eq_none ((hlen v rfl).trans_le hj)
  rw [imageEntry, hnone]

/-- Eight entries made from an image, or from none. -/
theorem entriesOfImage_of_imageEntry {image : Option (List Half)} {base : Nat} {e : Element}
    (hlen : ∀ v, image = some v → v.length = 8)
    (hentry : ∀ j < 8, e.entry (base + j) = imageEntry image j) : EntriesOfImage image base e := by
  refine ⟨fun hnone j hj => ?_, fun vs hvs j v hv => ?_⟩
  · rw [hentry j hj, hnone]
    rfl
  · have hj : j < 8 := hlen vs hvs ▸ (List.getElem?_eq_some_iff.1 hv).1
    rw [hentry j hj, imageEntry, hvs, Option.getD_some, hv]

theorem newElement_entriesOfImage_ctr (seed : Nat) {p : ElementSpec}
    (hlen : ∀ v, p.ctrImage = some v → v.length = 8) :
    EntriesOfImage p.ctrImage 8 (newElement seed p) :=
  entriesOfImage_of_imageEntry hlen fun j hj => by
    rw [newElement_entry seed p (by omega), if_neg (by omega), if_pos (by omega), Nat.add_sub_cancel_left]

theorem newElement_entriesOfImage_key (seed : Nat) {p : ElementSpec}
    (hlen : ∀ v, p.keyImage = some v → v.length = 8) :
    EntriesOfImage p.keyImage 16 (newElement seed p) :=
  entriesOfImage_of_imageEntry hlen fun j hj => by
    rw [newElement_entry seed p (by omega), if_neg (by omega), if_neg (by omega), Nat.add_sub_cancel_left]

/-- W and the parity word of a new element are not written. -/
theorem newElement_not_written (seed : Nat) {p : ElementSpec} (hlen : ∀ v, p.keyImage = some v → v.length = 8)
    {h : Nat} (hh : h < 8 ∨ 24 ≤ h) : ((newElement seed p).entry h).written = false := by
  have hblank : (newElement seed p).entry h = Entry.blank := by
    by_cases h26 : h < 26
    · rw [newElement_entry seed p h26]
      obtain hw | hparity := hh
      · exact if_pos hw
      · rw [if_neg (by omega), if_neg (by omega), imageEntry_beyond hlen (by omega)]
    · exact Element.entry_beyond _ (by omega)
  rw [hblank, Entry.blank]

/-- A grid that passes the checks has an element, so the machine is then constructed (R148). -/
theorem construct_constructed {s : State} {rows cols : Nat} {l : ArrayLengths} {ps : List ElementSpec}
    (hok : constructError rows cols l ps = none) : (s.construct rows cols l ps).constructed = true := by
  obtain ⟨⟨hr, -, hc, -⟩, hlen, -, -⟩ := gridOk_iff.1 (gridOk_of_constructError hok)
  have hpos : 0 < ps.length := hlen ▸ Nat.mul_pos hr hc
  rw [State.construct, hok, State.constructed, List.any_eq_true]
  exact ⟨newElement (s.draws + 0) ps[0], List.mem_mapIdx.2 ⟨0, hpos, rfl⟩, rfl⟩

/-- Settles O50: the checks pass, each identity has its new element, and the two conditions of Construct. -/
theorem constructMakesTheGridOnce : Obligations.ConstructMakesTheGridOnce := by
  refine ⟨fun s rows cols ps hs hc hg himages => ?_, fun s rows cols l ps hnot => ?_⟩
  · have hok := constructError_of_good hg (fun p hp => (himages p hp).1) (fun p hp => (himages p hp).2)
    have hcon := construct_constructed (s := s) hok
    refine ⟨_, hostAct_construct hs hc rows cols _ ps, ?_⟩
    rw [State.construct, hok] at hcon ⊢
    refine ⟨rfl, rfl, rfl, rfl, hcon, rfl, rfl, rfl, ?_⟩
    have hmade := (List.forall₂_and_left _ _).2
      ⟨fun _ hp => hp, forall₂_mapIdx (R := fun p e => ∃ seed, e = newElement seed p)
        (fun k _ => ⟨s.draws + k, rfl⟩) ps⟩
    refine hmade.imp ?_
    rintro p _ ⟨hp, seed, rfl⟩
    obtain ⟨⟨-, hrows, -, hcols⟩, -, hin, -⟩ := gridOk_iff.1 hg
    obtain ⟨hctr, hkey⟩ := himages p hp
    exact ⟨toNat_coordinate (hin p hp).1 hrows, toNat_coordinate (hin p hp).2 hcols, rfl,
      newElement_entriesOfImage_ctr seed hctr, newElement_entriesOfImage_key seed hkey,
      fun _ => newElement_not_written seed hkey, rfl, rfl⟩
  · obtain hrun | hrej | hcon := hnot
    · exact hostAct_of_not_atRest ((atRest_eq_false_iff s).2 (.inl hrun)) (by simp) (by simp)
    · exact hostAct_of_not_atRest ((atRest_eq_false_iff s).2 (.inr hrej)) (by simp) (by simp)
    · exact hostAct_construct_of_constructed hcon rows cols l ps

end Sys2Proof.Machine
end

section
/-! PROOF. Load and the rejections: which streams Load takes, that a construction error changes ERR and STATUS alone,
and what is left to a machine that was REJECTED until the next Construct (10_state.md R26; 60_exceptions.md R144 to
R146, R150 to R152). -/

namespace Sys2Proof.Machine

open Sys2Proof.Claims

/-! ### Load -/

/-- Settles O51: no reserved word is found, or the first one is. -/
theorem loadTakesOnlyLegalStreams : Obligations.LoadTakesOnlyLegalStreams := by
  intro s ws hs
  have hrest : s.atRest = true := (atRest_iff s).2 hs
  refine ⟨fun hlegal => ?_, fun k w hk hw hfirst => hostAct_load_reserved hrest hk hw hfirst⟩
  have hnone : firstIllegalWord 0 ws = none := by
    simpa only [firstIllegalWord_none, ← legalWord_eq_false_iff, Bool.not_eq_false] using hlegal
  rw [hostAct_load hrest, hnone, State.takeStream]

theorem hostAct_loadTerms {s : State} (hrest : s.atRest = true) (is : List Instr) :
    s.hostAct (.loadTerms is) = some (.ack, s.takeStream (firstTermError 0 is) (is.map encode)) := by
  simp [State.hostAct, hrest, rotTableError_rotTable]

/-- Load rejects a stream of terms with the code and the index of its first refused term. -/
theorem hostAct_loadTerms_refused {s : State} (hrest : s.atRest = true) {is : List Instr} {k : Nat}
    (hfirst : ∀ j < k, ∀ i, is[j]? = some i → i.WellFormed) {i : Instr} {e : TermError} (hk : is[k]? = some i)
    (hi : i.check = some e) :
    s.hostAct (.loadTerms is) =
      some (.ack, { s with status := .rejected, err := ⟨termErrorCode e, k⟩ }) := by
  rw [hostAct_loadTerms hrest, firstTermError_some 0 hk hi hfirst, Nat.zero_add]
  rfl

/-- A scalar of 2^16 or more is CE_SCALAR (R146). -/
theorem check_inject_of_scalar {q : Nat} (hq : 2 ^ 16 ≤ q) : (Instr.inject q).check = some .scalar := by
  rw [Instr.check, if_neg (by omega), if_neg (by omega)]

/-- An immediate of 2^16 or more is CE_SCALAR, if the slot is one (R117, R146, R150). -/
theorem check_addi32_of_scalar (d : Fin 4) {a imm : Nat} (ha : a ≤ 12) (himm : 2 ^ 16 ≤ imm) :
    (Instr.addi32 d a imm).check = some .scalar := by
  rw [Instr.check, if_neg (by omega), if_neg (by omega), if_neg (by omega)]

/-- Settles O52: the first refused term answers with the code of its first check that fails. -/
theorem loadRejectsBadTerms : Obligations.LoadRejectsBadTerms := by
  intro s is hs
  have hrest : s.atRest = true := (atRest_iff s).2 hs
  refine ⟨fun hlegal => ?_, fun k hfirst => ?_⟩
  · rw [hostAct_loadTerms hrest, firstTermError_none.2 hlegal, State.takeStream]
  · have hrefused := fun {i e} => hostAct_loadTerms_refused hrest hfirst (i := i) (e := e)
    exact ⟨fun d a amt hk ha hamt => hrefused hk (check_rotl32_of_large d ha hamt),
      fun ma mb amt hk hne hamt => hrefused hk (check_mix_of_large hne hamt),
      fun m amt hk => hrefused hk (check_mix_self m amt),
      fun q hk hq => hrefused hk (check_inject_of_scalar hq),
      fun d a imm hk ha himm => hrefused hk (check_addi32_of_scalar d ha himm)⟩

/-! ### Rejections -/

theorem firstIllegalWord_code {k : Nat} {ws : List OpWord} {err : Err} (h : firstIllegalWord k ws = some err) :
    err.code = .illegalOp := by
  induction ws generalizing k with
  | nil => cases h
  | cons w ws ih =>
    unfold firstIllegalWord at h
    split at h
    · exact ih h
    · cases h; rfl

theorem firstTermError_code {k : Nat} {is : List Instr} {err : Err} (h : firstTermError k is = some err) :
    ∃ e, err.code = termErrorCode e := by
  induction is generalizing k with
  | nil => cases h
  | cons i is ih =>
    unfold firstTermError at h
    split at h
    · exact ih h
    · rename_i e _; cases h; exact ⟨e, rfl⟩

theorem constructError_code {rows cols : Nat} {l : ArrayLengths} {ps : List ElementSpec} {err : Err}
    (h : constructError rows cols l ps = some err) : err.code = .grid ∨ err.code = .arrayLength := by
  unfold constructError at h
  split_ifs at h <;> cases h <;> simp

/-- A stream whose Load ends in REJECTED was rejected with an error code. -/
theorem takeStream_rejected {error : Option Err} {ws : List OpWord} {s : State}
    (hcode : ∀ err, error = some err → err.code ≠ .none) (hrej : (s.takeStream error ws).status = .rejected) :
    ∃ err, s.takeStream error ws = s.reject err ∧ err.code ≠ .none := by
  obtain ⟨-, ht⟩ | ⟨err, he, ht⟩ := takeStream_cases error ws s
  · rw [ht] at hrej; cases hrej
  · exact ⟨err, ht, hcode err he⟩

/-- An action that leads into REJECTED is a rejection with an error code (R151). -/
theorem hostAct_rejected {s t : State} {a : HostAction} {r : HostReply} (h : s.hostAct a = some (r, t))
    (hs : s.status ≠ .rejected) (ht : t.status = .rejected) :
    ∃ err, t = s.reject err ∧ err.code ≠ .none := by
  obtain rfl | ⟨-, -, rfl⟩ | ⟨rows, cols, l, ps, -, -, -, rfl⟩ | ⟨ws, -, -, rfl⟩ | ⟨is, -, -, rfl⟩ |
    ⟨row, col, array, j, v, -, -, -, rfl⟩ | ⟨-, -, -, -, rfl⟩ := hostAct_cases h
  · exact absurd ht hs
  · cases ht
  · obtain ⟨-, hnew⟩ | ⟨err, he, hrej⟩ := construct_cases rows cols l ps s
    · rw [hnew] at ht; cases ht
    · obtain hcode | hcode := constructError_code he <;> exact ⟨err, hrej, by simp [hcode]⟩
  · exact takeStream_rejected (fun err he => by simp [firstIllegalWord_code he]) ht
  · refine takeStream_rejected (fun err he => ?_) ht
    obtain ⟨e, hcode⟩ := firstTermError_code he
    cases e <;> simp [hcode, termErrorCode]
  · exact absurd ht hs
  · rw [State.endRun_eq] at ht
    split_ifs at ht

/-- Settles O53: such an action is a rejection, and a rejection is ERR and STATUS. -/
theorem rejectionChangesErrAndStatusOnly : Obligations.RejectionChangesErrAndStatusOnly := by
  intro s t a r h hs ht
  obtain ⟨err, rfl, hcode⟩ := hostAct_rejected h hs ht
  exact ⟨rfl, hcode⟩

/-! ### From a rejection to the next Construct -/

theorem not_atRest_of_rejected {s : State} (hs : s.status = .rejected) : s.atRest = false :=
  (atRest_eq_false_iff s).2 (.inr hs)

/-- On a REJECTED machine the host can read STATUS, which changes nothing, and reset (R152). -/
theorem hostAct_of_rejected {s t : State} (hs : s.status = .rejected) {a : HostAction} {r : HostReply}
    (h : s.hostAct a = some (r, t)) : t = s ∨ (a = .reset ∧ t = s.toReset) := by
  by_cases hread : a = .readStatus
  · subst hread
    cases h
    exact .inl rfl
  by_cases hreset : a = .reset
  · subst hreset
    rw [State.hostAct, if_neg (by simp [hs])] at h
    cases h
    exact .inr ⟨rfl, rfl⟩
  · rw [hostAct_of_not_atRest (not_atRest_of_rejected hs) hreset hread] at h
    cases h

/-- A Load leaves no run in progress, and a Construct due if one was. -/
theorem takeStream_awaitsConstruct {s : State} (hm : s.mustConstruct = true) (error : Option Err)
    (ws : List OpWord) : (s.takeStream error ws).status ≠ .running ∧ AwaitsConstruct (s.takeStream error ws) := by
  obtain ⟨-, ht⟩ | ⟨err, -, ht⟩ := takeStream_cases error ws s <;> rw [ht]
  · exact ⟨by simp, .inr hm⟩
  · exact ⟨by simp, .inl rfl⟩

/-- Construct leaves no run in progress, and either a Construct is due or it passed its checks and there is a grid. -/
theorem construct_awaitsConstruct (rows cols : Nat) (l : ArrayLengths) (ps : List ElementSpec) (s : State) :
    (s.construct rows cols l ps).status ≠ .running ∧
      (AwaitsConstruct (s.construct rows cols l ps) ∨
        (constructError rows cols l ps = none ∧ (s.construct rows cols l ps).constructed = true ∧
          (s.construct rows cols l ps).status = .idle)) := by
  obtain ⟨hok, ht⟩ | ⟨err, -, ht⟩ := construct_cases rows cols l ps s
  · have hcon := construct_constructed (s := s) hok
    rw [ht] at hcon ⊢
    exact ⟨by simp, .inr ⟨hok, hcon, rfl⟩⟩
  · rw [ht]
    exact ⟨by simp, .inl (.inl rfl)⟩

/-- A machine at rest that waits for a Construct was reset from REJECTED. -/
theorem mustConstruct_of_awaitsConstruct {s : State} (h : AwaitsConstruct s) (hrest : s.atRest = true) :
    s.mustConstruct = true := by
  obtain hrej | hm := h
  · rw [not_atRest_of_rejected hrej] at hrest
    cases hrest
  · exact hm

/-- While a Construct is due no action starts a run, and one alone ends the wait: a Construct that passes its checks
(R26, R152; log 26). -/
theorem hostAct_awaitsConstruct {s t : State} (hs : s.status ≠ .running) (hawait : AwaitsConstruct s)
    {a : HostAction} {r : HostReply} (h : s.hostAct a = some (r, t)) :
    t.status ≠ .running ∧
      (AwaitsConstruct t ∨
        (s.status ≠ .rejected ∧ ∃ rows cols l ps, a = .construct rows cols l ps ∧
          constructError rows cols l ps = none ∧ t.constructed = true ∧ t.status = .idle)) := by
  obtain rfl | ⟨-, -, rfl⟩ | ⟨rows, cols, l, ps, ha, hrest, -, rfl⟩ | ⟨ws, -, hrest, rfl⟩ | ⟨is, -, hrest, rfl⟩ |
    ⟨row, col, array, j, v, -, hrest, -, rfl⟩ | ⟨-, hrest, -, hm, rfl⟩ := hostAct_cases h
  · exact ⟨hs, .inl hawait⟩
  · exact ⟨by simp, .inl (.inr (s.toReset_mustConstruct_iff.2 hawait))⟩
  · obtain ⟨hrun, hdue | ⟨hok, hcon, hidle⟩⟩ := construct_awaitsConstruct rows cols l ps s
    · exact ⟨hrun, .inl hdue⟩
    · have hne : s.status ≠ .rejected := fun hrej => by simp [not_atRest_of_rejected hrej] at hrest
      exact ⟨hrun, .inr ⟨hne, rows, cols, l, ps, ha, hok, hcon, hidle⟩⟩
  · have hm := mustConstruct_of_awaitsConstruct hawait hrest
    exact (takeStream_awaitsConstruct hm _ _).imp_right .inl
  · have hm := mustConstruct_of_awaitsConstruct hawait hrest
    exact (takeStream_awaitsConstruct hm _ _).imp_right .inl
  · exact ⟨hs, .inl hawait⟩
  · rw [mustConstruct_of_awaitsConstruct hawait hrest] at hm
    cases hm

/-- Settles O58: each step serves one action of the host, and no action leaves the wait but the two named. -/
theorem rejectedUntilConstructedAgain : Obligations.RejectedUntilConstructedAgain := by
  refine ⟨fun s hs => ⟨fun t hstep => ?_, fun rest hp => ?_⟩, fun s t hrun hawait hstep => ?_⟩
  · obtain ⟨hrun, -⟩ | ⟨-, a, rest, r, u, hp, hact, rfl⟩ := step_next hstep
    · rw [hs] at hrun; cases hrun
    · obtain rfl | ⟨rfl, rfl⟩ := hostAct_of_rejected (s := { s with pending := rest }) hs hact
      · exact .inl ⟨hs, rfl, rfl, rfl⟩
      · exact .inr ⟨rest, hp, rfl, by simp [hs]⟩
  · have hrest : ({ s with pending := rest } : State).atRest = false := not_atRest_of_rejected hs
    obtain ⟨-, hserve⟩ := stepAtRestServesTheHost s (by simp [hs])
    exact (hserve .start rest hp).2 (hostAct_of_not_atRest hrest (by simp) (by simp))
  · obtain ⟨hs, -⟩ | ⟨-, a, rest, r, u, hp, hact, rfl⟩ := step_next hstep
    · exact absurd hs hrun
    · obtain ⟨hu, hdue | ⟨hne, rows, cols, l, ps, rfl, hok, hcon, hidle⟩⟩ :=
        hostAct_awaitsConstruct (s := { s with pending := rest }) hrun hawait hact
      · exact ⟨hu, .inl hdue⟩
      · exact ⟨hu, .inr ⟨hne, rows, cols, l, ps, rest, hp, hok, hcon, hidle⟩⟩

end Sys2Proof.Machine
end
